-- ==== Sys2Proof/Word.lean ====
section
/-! DEFINITION. Bytes, byte sequences of fixed length, bits and the direction: the words every other file uses
(spec/00_scope.md section 6). Numbers of a fixed width are bit vectors; a byte sequence is a list, or a vector where
its length is fixed by R17. -/

namespace Sys2Proof

/-- A byte, a natural number 0..255; bit 7 is the most significant (R55). -/
abbrev Byte := BitVec 8

/-- A one-bit field or register. -/
abbrev Bit := BitVec 1

/-- A byte sequence of any length (`Bytes` of 00_scope section 6). -/
abbrev Bytes := List Byte

/-- `Bytes(16)`: a key register or a cipher block (R17). -/
abbrev Block := Vector Byte 16

/-- `Bytes(4)`: the device-address and counter operands, the tag (R17). -/
abbrev Quad := Vector Byte 4

/-- Uplink (device to network) or downlink (network to device). -/
inductive Direction where
  | uplink
  | downlink
  deriving DecidableEq, Repr

/-- The bit that stands for a direction in `DIR` and in byte 5 of block A (R27, R96). -/
def Direction.bit : Direction → Bit
  | .uplink => 0
  | .downlink => 1

/-- The direction a bit stands for (R27). -/
def Direction.ofBit (b : Bit) : Direction := if b = 0 then .uplink else .downlink

end Sys2Proof
end

