-- ==== Sys2Proof/Machine/Bits.lean ====
section
/-! DEFINITION. The notation of spec/00_scope.md section 6 on bytes and byte sequences: bit ranges, slices,
little- and big-endian numbers, two's complement. -/

namespace Sys2Proof.Machine

/-- `b[hi:lo]`: floor(b / 2^lo) mod 2^(hi-lo+1), unsigned (R140, R55). -/
def bits (b : Byte) (hi lo : Nat) : Nat := b.toNat / 2 ^ lo % 2 ^ (hi - lo + 1)

/-- `b[k]`, one bit. -/
def bit (b : Byte) (k : Nat) : Bit := BitVec.ofNat 1 (bits b k k)

/-- `B[i]`. The callers test the length first; past the end this is 0 and no rule's result uses it (R57). -/
def byteAt (bs : Bytes) (i : Nat) : Byte := bs.getD i 0

/-- `B[a..b)` (00_scope section 6). -/
def slice (bs : Bytes) (a b : Nat) : Bytes := (bs.drop a).take (b - a)

/-- `le(B)`: first byte least significant. -/
def le : Bytes → Nat
  | [] => 0
  | b :: bs => b.toNat + 256 * le bs

/-- `be(B)` = `le(rev(B))`: first byte most significant. -/
def be (bs : Bytes) : Nat := le bs.reverse

/-- Byte k of a number, k = 0 the least significant. -/
def numByte (v k : Nat) : Byte := BitVec.ofNat 8 (v / 256 ^ k)

/-- `tole(v, 4)`. -/
def tole4 (v : BitVec 32) : Quad := #v[numByte v.toNat 0, numByte v.toNat 1, numByte v.toNat 2, numByte v.toNat 3]

/-- `rev(B)` on 4 bytes. -/
def rev4 (q : Quad) : Quad := #v[q[3], q[2], q[1], q[0]]

/-- `tobe(v, 4)`. -/
def tobe4 (v : BitVec 32) : Quad := rev4 (tole4 v)

/-- `sext_N(v)`: the two's-complement reading of v < 2^N (00_scope section 6, R176). -/
def sext (n v : Nat) : Int := if v < 2 ^ (n - 1) then (v : Int) else (v : Int) - 2 ^ n

/-- `B xor C` on sequences, cut to the shorter one (R128: "truncated to the chunk's actual length"). -/
def xorBytes (p s : Bytes) : Bytes := List.zipWith (fun a b => a ^^^ b) p s

end Sys2Proof.Machine
end

