-- ==== Sys2Proof/Config.lean ====
section
/-! DEFINITION. The implementation parameters of spec/00_scope.md section 5 (R12 to R16): what a model takes as
configuration and no operation changes. The one configuration the block of this model has is `Config.hw`, in
Sys2Proof/Machine/Params.lean. -/

namespace Sys2Proof

/-- `ORCH_ORDER` (R16): the order in which DECODE hands the address and the counter to the cipher. -/
inductive OrchOrder where
  | host
  | wire
  deriving DecidableEq, Repr

/-- Names of commands (R170). The 18 of the default table (R180); `other` names a command of another table.
DESIGN CHOICE, safe: log 14. -/
inductive CmdName where
  | linkCheckReq | linkADRAns | dutyCycleAns | rxParamSetupAns | devStatusAns | newChannelAns
  | rxTimingSetupAns | txParamSetupAns | dlChannelAns
  | linkCheckAns | linkADRReq | dutyCycleReq | rxParamSetupReq | devStatusReq | newChannelReq
  | rxTimingSetupReq | txParamSetupReq | dlChannelReq
  | other (n : Nat)
  deriving DecidableEq, Repr

/-- Names of the fields inside command bodies (R181 to R198); `other` names a field of another table (log 14). -/
inductive FieldName where
  | powerAck | datarateAck | chmaskAck | rx1droffsetAck | rx2datarateAck | channelAck
  | battery | margin | datarateRangeOk | channelFreqOk | uplinkFreqExists | gwcnt
  | datarate | txpower | chmask | chmaskcntl | nbtrans | maxdcycle
  | rx1droffset | rx2datarate | freqHz | chindex | maxdr | mindr | delay
  | downlinkDwell | uplinkDwell | maxeirp
  | other (n : Nat)
  deriving DecidableEq, Repr

/-- The four primitives a field takes its value by (R176). -/
inductive FieldPrim where
  /-- `u(k, hi, lo)`: bits hi..lo of body byte k, unsigned. -/
  | u (k hi lo : Nat)
  /-- `s(k, hi, lo)`: the same bits in two's complement. -/
  | s (k hi lo : Nat)
  /-- `ule(k, m)`: m bytes from byte k, first byte least significant. -/
  | ule (k m : Nat)
  /-- `freq(k)`: `ule(k, 3)` in units of 100 Hz, given in hertz. -/
  | freq (k : Nat)
  deriving DecidableEq, Repr

/-- Whether a primitive reads body byte `j` (R176). -/
def FieldPrim.reads (j : Nat) : FieldPrim → Prop
  | .u k _ _ => j = k
  | .s k _ _ => j = k
  | .ule k m => k ≤ j ∧ j < k + m
  | .freq k => k ≤ j ∧ j < k + 3

/-- One row of the command table (R170): name, body length, decode rule. -/
structure CmdRow where
  name   : CmdName
  len    : Nat
  fields : List (FieldName × FieldPrim)
  deriving DecidableEq, Repr

/-- `CMDTAB` (R13): a lookup keyed by identifier and direction. -/
abbrev CmdTab := Byte → Direction → Option CmdRow

/-- The constraints of R171 on a row: the body length is between 0 and 5, and the decode rule reads exactly the bytes
of the body, "without over- or under-reading". -/
structure CmdRow.WellFormed (row : CmdRow) : Prop where
  len   : row.len ≤ 5
  reads : ∀ j, (∃ f ∈ row.fields, f.2.reads j) ↔ j < row.len

/-- The constraint of R171 on a table. -/
def CmdTab.WellFormed (tab : CmdTab) : Prop := ∀ id dir row, tab id dir = some row → row.WellFormed

/-- The parameters R12 to R16. -/
structure Config where
  /-- `AES128`, key first, block second (R12). -/
  aes128    : Block → Block → Block
  /-- `CMDTAB` (R13). -/
  cmdtab    : CmdTab
  /-- `DIAG_PORT` (R14). -/
  diagPort  : Byte
  /-- `BUF_MAX` (R15); none is unbounded. -/
  bufMax    : Option Nat
  /-- `ORCH_ORDER` (R16). -/
  orchOrder : OrchOrder

/-- The constraints the spec puts on the parameters: R15 (`BUF_MAX` at least 5), R157 (`DIAG_PORT` not 0), R171. -/
structure Config.WellFormed (cfg : Config) : Prop where
  bufMax   : ∀ n, cfg.bufMax = some n → 5 ≤ n
  diagPort : cfg.diagPort ≠ 0
  cmdtab   : cfg.cmdtab.WellFormed

end Sys2Proof
end

