-- ==== Sys2Proof/Machine/State.lean ====
section
/-! DEFINITION. The architectural state of spec/10_state.md: the request registers (R21 to R30), the result registers
(R31 to R37), the reasons a step can stop, and the state after reset (R45). A register that "holds no value" (R45,
R46) is `none`: that is the spec's own state, log 5. -/

namespace Sys2Proof.Machine

/-- A byte buffer (`IN`, `OUT`; R50): index and byte pairs, indices strictly rising. An index that is not listed holds
no value. DESIGN CHOICE, safe: log 8 and log 9. -/
abbrev Memory := List Host.Cell

/-- The frame types, in the order of R82. -/
inductive FrameType where
  | joinRequest | joinAccept | unconfirmedUp | unconfirmedDown | confirmedUp | confirmedDown | reserved | proprietary
  deriving DecidableEq, Repr

/-- `Mhdr` (R34). -/
structure Mhdr where
  ftype : FrameType
  rfu   : BitVec 3
  major : BitVec 2
  deriving DecidableEq, Repr

/-- `JoinReq` (R34). -/
structure JoinReq where
  appId    : BitVec 64
  devId    : BitVec 64
  devNonce : Bytes
  deriving DecidableEq, Repr

/-- `JoinAcc` (R34). -/
structure JoinAcc where
  appNonce   : BitVec 24
  netId      : BitVec 24
  devAddr    : BitVec 32
  dlSettings : Byte
  rxDelay    : Byte
  cflist     : Option Bytes
  deriving DecidableEq, Repr

/-- `Fctrl` (R35): four fields exist in one direction only. -/
structure Fctrl where
  raw       : Byte
  adr       : Bit
  ack       : Bit
  foptslen  : BitVec 4
  adrackreq : Option Bit := none
  classb    : Option Bit := none
  rfu6      : Option Bit := none
  fpending  : Option Bit := none
  deriving DecidableEq, Repr

/-- `Cmd` (R37). -/
structure Cmd where
  id     : Byte
  dir    : Direction
  name   : CmdName
  body   : Bytes
  fields : List (FieldName × Int)
  deriving DecidableEq, Repr

/-- `StreamStop` (R36). -/
inductive StreamStop where
  | complete
  | unrecognized (id : Byte) (pos : Nat)
  | shortBody (id : Byte) (pos : Nat)
  deriving DecidableEq, Repr

/-- `CmdStream` (R36). -/
structure CmdStream where
  cmds : List Cmd
  stop : StreamStop
  deriving DecidableEq, Repr

/-- `FrmClass` (R35, R90). -/
inductive FrmClass where
  | absent | diagnostic | commands | appData | conflict
  deriving DecidableEq, Repr

/-- `DataReport` (R35). -/
structure DataReport where
  devAddr  : Option (BitVec 32) := none
  fctrl    : Option Fctrl := none
  fcnt16   : Option (BitVec 16) := none
  fcnt32   : Option (BitVec 32) := none
  fopts    : Option CmdStream := none
  port     : Option Byte := none
  frm      : Option Bytes := none
  frmClass : Option FrmClass := none
  frmPlain : Option Bytes := none
  frmCmds  : Option CmdStream := none
  deriving DecidableEq, Repr

/-- `Report` (R34). -/
structure Report where
  tag       : Option Bytes := none
  body      : Option Bytes := none
  mhdr      : Option Mhdr := none
  direction : Option Direction := none
  joinreq   : Option JoinReq := none
  joinacc   : Option JoinAcc := none
  data      : Option DataReport := none
  fctrl     : Option Fctrl := none
  stream    : Option CmdStream := none
  deriving DecidableEq, Repr

/-- Which key MissingKey names (R261, R271). -/
inductive KeyKind where
  | network | application
  deriving DecidableEq, Repr

/-- The places of MalformedLength (R261, R266). -/
inductive Place where
  | aesblk | mhdr | fctrl | joinreq | joinacc | fhdr | fopts | cmdBody
  deriving DecidableEq, Repr

/-- `ERR` and `ERR_INFO` as one tagged value (R32, R261, D5); `Err.code` and `Err.info` are the two registers.
DESIGN CHOICE, safe: log 15. -/
inductive Err where
  | ok
  /-- The host's HexIngest only; no operation raises it (R262). -/
  | malformedHexInput
  | truncatedFrame
  | unsupportedFrameType (ftype : FrameType)
  | conflictingCommandPlacement
  | unrecognizedCommand (id : Byte) (pos : Nat)
  | missingKey (kind : KeyKind)
  | malformedLength (place : Place)
  deriving DecidableEq, Repr

/-- `STATUS` (R31): IDLE is 0, DONE is 1. -/
inductive Status where
  | idle | done
  deriving DecidableEq, Repr

/-- The state of the block. -/
structure State where
  /-- `OP` (R21). -/
  op      : Option (BitVec 4)
  /-- `IN` (R22, R50). -/
  inBuf   : Option Memory
  /-- `IN_LEN` (R22). -/
  inLen   : Option Nat
  /-- `KEY_NWK` (R23). -/
  keyNwk  : Option Block
  /-- `KEY_NWK_V` (R23). -/
  keyNwkV : Bit
  /-- `KEY_APP` (R24). -/
  keyApp  : Option Block
  /-- `KEY_APP_V` (R24). -/
  keyAppV : Bit
  /-- `FCNT_HI` (R25). -/
  fcntHi  : BitVec 16
  /-- `BE` (R26). -/
  be      : Option Bit
  /-- `DIR` (R27). -/
  dir     : Option Bit
  /-- `KSEL` (R28). -/
  ksel    : Option Bit
  /-- `ADDR` (R29). -/
  addr    : Option Quad
  /-- `CNT` (R30). -/
  cnt     : Option Quad
  /-- `STATUS` (R31). -/
  status  : Status
  /-- `ERR` and `ERR_INFO` (R32). -/
  err     : Option Err
  /-- `OUT` (R33, R50). -/
  out     : Option Memory
  /-- `OUT_LEN` (R33). -/
  outLen  : Option Nat
  /-- `REPORT` (R34). -/
  report  : Option Report
  deriving DecidableEq, Repr

/-- The state after reset: the table of R45. -/
def State.reset : State where
  op := none
  inBuf := none
  inLen := none
  keyNwk := none
  keyNwkV := 0
  keyApp := none
  keyAppV := 0
  fcntHi := 0
  be := none
  dir := none
  ksel := none
  addr := none
  cnt := none
  status := .idle
  err := none
  out := none
  outLen := none
  report := none

/-- The registers by name, for a refusal to say which one held no value (R46). -/
inductive Reg where
  | op | inBuf | inLen | keyNwk | keyApp | be | dir | ksel | addr | cnt
  | err | out | outLen | report
  deriving DecidableEq, Repr

/-- Why a step stops with a fault. -/
inductive Fault where
  /-- Raised by every operation but CIPHER, for an input of a length its format does not have: the operation completes
  with `ERR` = MalformedLength, and "a model treats it as a fault" (R57, R266, R305, U8). `after` is the block's state
  then: result group and partial report as R266 gives them; the host may go on from it (R274). Safe: log 7. -/
  | malformedLength (place : Place) (after : State)
  deriving DecidableEq, Repr

/-- Why a request, or a host's access, has no meaning: no step is taken and nothing changes (R277). -/
inductive Refusal where
  /-- Raised by `exec` for an instruction without a meaning. None is left. Safe. -/
  | notModelled (mnemonic : String)
  /-- Raised by `step` for `OP` 0 or 10 to 15 (R101). Safe. -/
  | reservedOp (op : BitVec 4)
  /-- Raised by an operation that reads a register holding no value: "the model **refuses** it (no step, no result). It
  does not pick zero" (R46, R277, U7, D15). Safe: log 5, log 6. -/
  | noValue (r : Reg)
  /-- Raised by an operation whose `IN_LEN` is above `BUF_MAX`, and by a host's write above it (R15, R277). Safe. -/
  | aboveBufMax (len : Nat)
  /-- Raised by a host's read of a result register while `STATUS` = IDLE: "reading them while `STATUS` = IDLE is refused"
  (R45, U18, D15). Safe: log 5. -/
  | resultsWhileIdle
  /-- Raised by a host's read of `OUT` at or above `OUT_LEN` (R33, U20). Safe: log 8. -/
  | outPastLength (index : Nat)
  deriving DecidableEq, Repr

end Sys2Proof.Machine
end

