-- ==== Sys2Proof/Machine/Ops.lean ====
section
/-! DEFINITION. The named operations over memory and registers: the byte buffers (R50, R51, R59), and the one way an
operation records an error and delivers its result (spec/60_exceptions.md R260, R267, R268, R273). -/

namespace Sys2Proof.Machine

/-! ### Byte buffers -/

/-- The canonical form from an index on: indices strictly rising, none below `lo`. -/
def Memory.wfFrom : Nat → Memory → Bool
  | _, [] => true
  | lo, (a, _) :: m => decide (lo ≤ a) && Memory.wfFrom (a + 1) m

/-- The canonical form: indices strictly rising. An unlisted index reads as no value, which no entry can equal. -/
def Memory.wf (m : Memory) : Bool := Memory.wfFrom 0 m

/-- The byte at an index; none where no value was written (log 9). -/
def Memory.read : Memory → Nat → Option Byte
  | [], _ => none
  | (a, b) :: m, i => if i = a then some b else Memory.read m i

/-- Writing one byte keeps the list in rising order. -/
def Memory.write : Memory → Nat → Byte → Memory
  | [], i, v => [(i, v)]
  | (a, b) :: m, i, v =>
    if i < a then (i, v) :: (a, b) :: m
    else if i = a then (i, v) :: m
    else (a, b) :: Memory.write m i v

/-- `MemWrite(buf, off, len(bs), bs)` (00_scope section 6). -/
def Memory.writeBytes : Memory → Nat → Bytes → Memory
  | m, _, [] => m
  | m, off, b :: bs => Memory.writeBytes (m.write off b) (off + 1) bs

/-- `MemRead(buf, off, n)`; none where a byte holds no value: a read never returns fewer bytes (R57). -/
def Memory.readBytes (m : Memory) : Nat → Nat → Option Bytes
  | _, 0 => some []
  | off, n + 1 =>
    match m.read off, m.readBytes (off + 1) n with
    | some b, some bs => some (b :: bs)
    | _, _ => none

/-- The buffer that lists exactly these bytes from an index on. -/
def Memory.ofBytesFrom : Nat → Bytes → Memory
  | _, [] => []
  | i, b :: bs => (i, b) :: Memory.ofBytesFrom (i + 1) bs

/-- The buffer that lists exactly these bytes from index 0 on. -/
def Memory.ofBytes (bs : Bytes) : Memory := Memory.ofBytesFrom 0 bs

/-! ### Recording an error and delivering a result -/

/-- What an operation has worked out so far: the error it recorded, if any, and the report fields it wrote. -/
structure Work where
  err    : Err := .ok
  report : Report := {}
  deriving DecidableEq, Repr

/-- Whether an operation goes on or was ended by a `raise`. -/
inductive Flow where
  | goesOn (w : Work)
  | ended (w : Work)
  deriving DecidableEq, Repr

/-- What was worked out, ended or not. -/
def Flow.work : Flow → Work
  | .goesOn w => w
  | .ended w => w

/-- `note E(info)` (R267): the first recorded error stays (R270). -/
def Work.note (e : Err) (w : Work) : Work := if w.err = .ok then { w with err := e } else w

/-- `raise E(info)` (R268): records as `note` does and ends the operation. -/
def raise (e : Err) (w : Work) : Flow := .ended (w.note e)

/-- What a walk's stop records: UnrecognizedCommand, or MalformedLength(CMD_BODY) (R172, R269). -/
def Work.noteStop (stop : StreamStop) (w : Work) : Work :=
  match stop with
  | .complete => w
  | .unrecognized id pos => w.note (.unrecognizedCommand id pos)
  | .shortBody _ _ => w.note (.malformedLength .cmdBody)

/-- Writes `REPORT.data`. -/
def Work.setData (d : DataReport) (w : Work) : Work := { w with report := { w.report with data := some d } }

/-- Writes `REPORT.direction`. -/
def Work.setDirection (d : Option Direction) (w : Work) : Work :=
  { w with report := { w.report with direction := d } }

/-- The end of every operation, error or not (R47, R273): the whole result group is rewritten, `STATUS` is DONE, `OUT`
lists exactly the output bytes (log 8), and no request register changes. -/
def complete (s : State) (w : Work) (out : Bytes) : State :=
  { s with
    status := .done
    err := some w.err
    out := some (Memory.ofBytes out)
    outLen := some out.length
    report := some w.report }

/-- How a completed operation is answered: a next state, or the fault of a result that carries MalformedLength (R266),
which holds the completed state (log 7). -/
def deliver (s : State) (w : Work) (out : Bytes) : Host.Outcome State Fault Refusal :=
  match w.err with
  | .malformedLength place => .fault (.malformedLength place (complete s w out))
  | .ok | .malformedHexInput | .truncatedFrame | .unsupportedFrameType _ | .conflictingCommandPlacement
  | .unrecognizedCommand _ _ | .missingKey _ => .next (complete s w out)

/-- After an operation there is nothing to return from: the next one starts from the request registers alone (R274).
This is the state it starts in, wherever the last one ended. -/
def resume : Host.Outcome State Fault Refusal → State → State
  | .next t, _ => t
  | .fault (.malformedLength _ after), _ => after
  | .refused _, s => s

end Sys2Proof.Machine
end

