-- ==== Sys2Proof/Machine/Operands.lean ====
section
/-! DEFINITION. How an operation reads its operands, the request registers of R39: a register that holds no value
makes the request ill-formed, and it is refused (R46, R277). The registers of R39's table are required before the
operation begins (R292), those it marks "when used" when they are used. DEDUCED, safe: log 6. -/

namespace Sys2Proof.Machine

/-- Reads a register that must hold a value (R46). -/
def need {α : Type} (r : Reg) (v : Option α) (k : α → Host.Outcome State Fault Refusal) :
    Host.Outcome State Fault Refusal :=
  match v with
  | none => .refused (.noValue r)
  | some a => k a

/-- Whether a length is above `BUF_MAX` (R15); nothing is above an unbounded one. -/
def aboveMax (cfg : Config) (n : Nat) : Bool :=
  match cfg.bufMax with
  | none => false
  | some m => decide (m < n)

/-- The input byte sequence `IN[0..IN_LEN)` (R22); bytes at index `IN_LEN` and above are not read. -/
def withInput (cfg : Config) (s : State) (k : Bytes → Host.Outcome State Fault Refusal) :
    Host.Outcome State Fault Refusal :=
  need .inLen s.inLen fun n =>
    if aboveMax cfg n then .refused (.aboveBufMax n)
    else need .inBuf s.inBuf fun m => need .inBuf (m.readBytes 0 n) k

/-- What `KSEL` selects (R28): a key's valid bit, its register, and its kind. -/
structure KeySource where
  valid : Bit
  key   : Option Block
  reg   : Reg
  kind  : KeyKind

/-- The key operand of CIPHER and AESBLK (R28, R122, R130). -/
def selectKey (s : State) (ksel : Bit) : KeySource :=
  if ksel = 0 then ⟨s.keyNwkV, s.keyNwk, .keyNwk, .network⟩
  else ⟨s.keyAppV, s.keyApp, .keyApp, .application⟩

/-- Reads the selected key: MissingKey when its valid bit is 0 (R271), and then the key register is not read (R23). -/
def withKey (s : State) (ksel : Bit) (k : Block → Host.Outcome State Fault Refusal) :
    Host.Outcome State Fault Refusal :=
  let src := selectKey s ksel
  if src.valid = 0 then deliver s (raise (.missingKey src.kind) {}).work []
  else need src.reg src.key k

/-- Reads `DIR` (R27). -/
def withDir (s : State) (k : Direction → Host.Outcome State Fault Refusal) : Host.Outcome State Fault Refusal :=
  need .dir s.dir fun d => k (Direction.ofBit d)

end Sys2Proof.Machine
end

