-- ==== Sys2Proof/Machine/Aes.lean ====
section
/-! DEFINITION. The AES-128 forward cipher of FIPS-197, key and block first byte first: the value of the parameter
`AES128` in the configuration of this model (R12, R121, D18, G2). No rule of the block rests on it. PRESUMED, unsafe:
log 2. The state is 16 numbers below 256, in the order of the block's bytes. -/

namespace Sys2Proof.Machine

/-- The S-box as one number, entry x in bits 8x+7..8x. -/
def aesSboxTable : Nat := 
  0x16bb54b00f2d99416842e6bf0d89a18cdf2855cee9871e9b948ed9691198f8e19e1dc186b95735610ef6034866b53e708a8bbd4b1f74dde8c6b4a61c2e2578ba08ae7a65eaf4566ca94ed58d6d37c8e779e4959162acd3c25c2406490a3a32e0db0b5ede14b8ee4688902a22dc4f816073195d643d7ea7c41744975fec130ccdd2f3ff1021dab6bcf5389d928f40a351a89f3c507f02f94585334d43fbaaefd0cf584c4a39becb6a5bb1fc20ed00d153842fe329b3d63b52a05a6e1b1a2c830975b227ebe28012079a059618c323c7041531d871f1e5a534ccf73f362693fdb7c072a49cafa2d4adf04759fa7dc982ca76abd7fe2b670130c56f6bf27b777c63

/-- One S-box entry. -/
def aesSbox (x : Nat) : Nat := aesSboxTable >>> (8 * x) % 256

/-- Multiplication by 2 in the field of AES. -/
def aesXtime (x : Nat) : Nat := if x < 128 then 2 * x else (2 * x) ^^^ 0x11b

/-- MixColumns on one column. -/
def aesMixColumn (a b c d : Nat) : List Nat :=
  let t := a ^^^ b ^^^ c ^^^ d
  [a ^^^ t ^^^ aesXtime (a ^^^ b), b ^^^ t ^^^ aesXtime (b ^^^ c),
   c ^^^ t ^^^ aesXtime (c ^^^ d), d ^^^ t ^^^ aesXtime (d ^^^ a)]

/-- MixColumns on the columns of a state. -/
def aesMixColumns : List Nat → List Nat
  | a :: b :: c :: d :: rest => aesMixColumn a b c d ++ aesMixColumns rest
  | _ => []

/-- SubBytes and ShiftRows together: byte i of the result is the S-box of byte 5i mod 16. -/
def aesSubShift (st : List Nat) : List Nat :=
  [0, 5, 10, 15, 4, 9, 14, 3, 8, 13, 2, 7, 12, 1, 6, 11].map fun i => aesSbox (st.getD i 0)

/-- AddRoundKey. -/
def aesAddKey (st key : List Nat) : List Nat := List.zipWith (fun a b => a ^^^ b) st key

/-- Adds a word to the words of a round key, one after the other. -/
def aesKeyWords : List Nat → List Nat → List Nat
  | w, a :: b :: c :: d :: rest =>
    let v := aesAddKey w [a, b, c, d]
    v ++ aesKeyWords v rest
  | _, _ => []

/-- The next round key. -/
def aesNextKey (rcon : Nat) (key : List Nat) : List Nat :=
  let w := [aesSbox (key.getD 13 0) ^^^ rcon, aesSbox (key.getD 14 0), aesSbox (key.getD 15 0),
    aesSbox (key.getD 12 0)]
  aesKeyWords w key

/-- The rounds after the first AddRoundKey, one for each round constant; the last has no MixColumns. -/
def aesRounds : List Nat → List Nat → List Nat → List Nat
  | [], _, st => st
  | [rcon], key, st => aesAddKey (aesSubShift st) (aesNextKey rcon key)
  | rcon :: rcons, key, st =>
    let key' := aesNextKey rcon key
    aesRounds rcons key' (aesAddKey (aesMixColumns (aesSubShift st)) key')

/-- The forward cipher. -/
def aes128 (key block : Block) : Block :=
  let k := key.toList.map BitVec.toNat
  let st := aesRounds [0x01, 0x02, 0x04, 0x08, 0x10, 0x20, 0x40, 0x80, 0x1b, 0x36] k
    (aesAddKey (block.toList.map BitVec.toNat) k)
  Vector.ofFn fun i => BitVec.ofNat 8 (st.getD i.val 0)

end Sys2Proof.Machine
end

