-- ==== Sys2Proof/Machine/CmdTable.lean ====
section
/-! DEFINITION. The default instance of `CMDTAB`: the 18 rows of spec/42_mac_commands.md section 4 (R180 to R198),
supplied by the spec from general knowledge (G4). PRESUMED, unsafe: log 3. -/

namespace Sys2Proof.Machine

/-- R181. -/
def rowLinkCheckReq : CmdRow := ⟨.linkCheckReq, 0, []⟩

/-- R182. -/
def rowLinkADRAns : CmdRow :=
  ⟨.linkADRAns, 1, [(.powerAck, .u 0 2 2), (.datarateAck, .u 0 1 1), (.chmaskAck, .u 0 0 0)]⟩

/-- R183. -/
def rowDutyCycleAns : CmdRow := ⟨.dutyCycleAns, 0, []⟩

/-- R184. -/
def rowRXParamSetupAns : CmdRow :=
  ⟨.rxParamSetupAns, 1, [(.rx1droffsetAck, .u 0 2 2), (.rx2datarateAck, .u 0 1 1), (.channelAck, .u 0 0 0)]⟩

/-- R185. -/
def rowDevStatusAns : CmdRow := ⟨.devStatusAns, 2, [(.battery, .u 0 7 0), (.margin, .s 1 5 0)]⟩

/-- R186. -/
def rowNewChannelAns : CmdRow :=
  ⟨.newChannelAns, 1, [(.datarateRangeOk, .u 0 1 1), (.channelFreqOk, .u 0 0 0)]⟩

/-- R187. -/
def rowRXTimingSetupAns : CmdRow := ⟨.rxTimingSetupAns, 0, []⟩

/-- R188. -/
def rowTxParamSetupAns : CmdRow := ⟨.txParamSetupAns, 0, []⟩

/-- R189. -/
def rowDlChannelAns : CmdRow :=
  ⟨.dlChannelAns, 1, [(.uplinkFreqExists, .u 0 1 1), (.channelFreqOk, .u 0 0 0)]⟩

/-- R190. -/
def rowLinkCheckAns : CmdRow := ⟨.linkCheckAns, 2, [(.margin, .u 0 7 0), (.gwcnt, .u 1 7 0)]⟩

/-- R191. -/
def rowLinkADRReq : CmdRow :=
  ⟨.linkADRReq, 4, [(.datarate, .u 0 7 4), (.txpower, .u 0 3 0), (.chmask, .ule 1 2), (.chmaskcntl, .u 3 6 4),
    (.nbtrans, .u 3 3 0)]⟩

/-- R192. -/
def rowDutyCycleReq : CmdRow := ⟨.dutyCycleReq, 1, [(.maxdcycle, .u 0 3 0)]⟩

/-- R193. -/
def rowRXParamSetupReq : CmdRow :=
  ⟨.rxParamSetupReq, 4, [(.rx1droffset, .u 0 6 4), (.rx2datarate, .u 0 3 0), (.freqHz, .freq 1)]⟩

/-- R194. -/
def rowDevStatusReq : CmdRow := ⟨.devStatusReq, 0, []⟩

/-- R195. -/
def rowNewChannelReq : CmdRow :=
  ⟨.newChannelReq, 5, [(.chindex, .u 0 7 0), (.freqHz, .freq 1), (.maxdr, .u 4 7 4), (.mindr, .u 4 3 0)]⟩

/-- R196. -/
def rowRXTimingSetupReq : CmdRow := ⟨.rxTimingSetupReq, 1, [(.delay, .u 0 3 0)]⟩

/-- R197. -/
def rowTxParamSetupReq : CmdRow :=
  ⟨.txParamSetupReq, 1, [(.downlinkDwell, .u 0 5 5), (.uplinkDwell, .u 0 4 4), (.maxeirp, .u 0 3 0)]⟩

/-- R198. -/
def rowDlChannelReq : CmdRow := ⟨.dlChannelReq, 4, [(.chindex, .u 0 7 0), (.freqHz, .freq 1)]⟩

/-- The Uplink half (R181 to R189). -/
def uplinkRow : Nat → Option CmdRow
  | 0x02 => some rowLinkCheckReq
  | 0x03 => some rowLinkADRAns
  | 0x04 => some rowDutyCycleAns
  | 0x05 => some rowRXParamSetupAns
  | 0x06 => some rowDevStatusAns
  | 0x07 => some rowNewChannelAns
  | 0x08 => some rowRXTimingSetupAns
  | 0x09 => some rowTxParamSetupAns
  | 0x0A => some rowDlChannelAns
  | _ => none

/-- The Downlink half (R190 to R198). -/
def downlinkRow : Nat → Option CmdRow
  | 0x02 => some rowLinkCheckAns
  | 0x03 => some rowLinkADRReq
  | 0x04 => some rowDutyCycleReq
  | 0x05 => some rowRXParamSetupReq
  | 0x06 => some rowDevStatusReq
  | 0x07 => some rowNewChannelReq
  | 0x08 => some rowRXTimingSetupReq
  | 0x09 => some rowTxParamSetupReq
  | 0x0A => some rowDlChannelReq
  | _ => none

/-- The default table (R180): every identifier outside 0x02..0x0A has no row. -/
def defaultCmdTab : CmdTab
  | id, .uplink => uplinkRow id.toNat
  | id, .downlink => downlinkRow id.toNat

end Sys2Proof.Machine
end

