-- ==== Sys2Proof/Machine/Params.lean ====
section
/-! DEFINITION. The configuration of the block this model is (spec/00_scope.md R12 to R16): every parameter at the value
or default the spec names for it. The operations take any `Config`. -/

namespace Sys2Proof

/-- `AES128` of FIPS-197 (D18, log 2), the default command table (D19, log 3), `DIAG_PORT` 224 (R14), `BUF_MAX`
unbounded and `ORCH_ORDER` host (D4, D9, log 4). -/
def Config.hw : Config where
  aes128 := Machine.aes128
  cmdtab := Machine.defaultCmdTab
  diagPort := 224
  bufMax := none
  orchOrder := .host

end Sys2Proof
end

