-- ==== Sys2Proof/Machine/Cipher.lean ====
section
/-! DEFINITION. The payload cipher family, AESBLK and CIPHER (spec/40_cipher.md). -/

namespace Sys2Proof.Machine

/-- `blockA(dir, a, c, i)` (R123, R96). -/
def blockA (dir : Bit) (a ctr : Quad) (i : Nat) : Block :=
  #v[0x01, 0x00, 0x00, 0x00, 0x00, dir.setWidth 8, a[0], a[1], a[2], a[3], ctr[0], ctr[1], ctr[2], ctr[3], 0x00,
    BitVec.ofNat 8 (i % 256)]

/-- The endianness selector (R124): `rev` when `BE` = 1, as handed over when `BE` = 0. -/
def ordered (be : Bit) (q : Quad) : Quad := if be = 1 then rev4 q else q

/-- Keystream block `S_i` (R126). -/
def keystream (aes : Block → Block → Block) (K : Block) (dir : Bit) (a c : Quad) (i : Nat) : Block :=
  aes K (blockA dir a c i)

/-- The loop of R129 over `n` chunks from chunk `i` on: each chunk of 16 bytes, the last cut to its length (R128). -/
def xorChunks (aes : Block → Block → Block) (K : Block) (dir : Bit) (a c : Quad) : Nat → Nat → Bytes → Bytes
  | 0, _, _ => []
  | n + 1, i, p =>
    xorBytes (p.take 16) (keystream aes K dir a c i).toList ++ xorChunks aes K dir a c n (i + 1) (p.drop 16)

/-- `frm_cipher(K, dir, addr, cnt, be, P)` (R129): ceil(L / 16) chunks from i = 1. -/
def frmCipher (aes : Block → Block → Block) (K : Block) (dir : Bit) (addr cnt : Quad) (be : Bit) (P : Bytes) : Bytes :=
  xorChunks aes K dir (ordered be addr) (ordered be cnt) ((P.length + 15) / 16) 1 P

/-- Sixteen bytes as a block; the callers test the length first. -/
def blockOf (bs : Bytes) : Block := Vector.ofFn fun i => byteAt bs i.val

/-- AESBLK (R122): the key test comes before the length test (R270). -/
def opAesblk (cfg : Config) (s : State) : Host.Outcome State Fault Refusal :=
  withInput cfg s fun input =>
    need .ksel s.ksel fun ksel =>
      withKey s ksel fun K =>
        if input.length = 16 then deliver s {} (cfg.aes128 K (blockOf input)).toList
        else deliver s (raise (.malformedLength .aesblk) {}).work []

/-- CIPHER (R130): every length is accepted. -/
def opCipher (cfg : Config) (s : State) : Host.Outcome State Fault Refusal :=
  withInput cfg s fun input =>
    need .ksel s.ksel fun ksel =>
      withDir s fun dir =>
        need .addr s.addr fun addr =>
          need .cnt s.cnt fun cnt =>
            need .be s.be fun be =>
              withKey s ksel fun K => deliver s {} (frmCipher cfg.aes128 K dir.bit addr cnt be input)

/-- AESBLK, `OP` = 9. -/
def execAesblk (s : State) : Host.Outcome State Fault Refusal := opAesblk Config.hw s

/-- CIPHER, `OP` = 2. -/
def execCipher (s : State) : Host.Outcome State Fault Refusal := opCipher Config.hw s

end Sys2Proof.Machine
end

