-- ==== Sys2Proof/Machine/Commands.lean ====
section
/-! DEFINITION. The command-stream parser MACPARSE and the 18 commands of the default table
(spec/42_mac_commands.md). -/

namespace Sys2Proof.Machine

/-- The value of a field primitive on a body (R176). -/
def fieldValue (body : Bytes) : FieldPrim → Int
  | .u k hi lo => (bits (byteAt body k) hi lo : Int)
  | .s k hi lo => sext (hi - lo + 1) (bits (byteAt body k) hi lo)
  | .ule k m => (le (slice body k (k + m)) : Int)
  | .freq k => (le (slice body k (k + 3)) * 100 : Int)

/-- A row's decode rule (R176): it cannot fail (R171). -/
def rowFields (row : CmdRow) (body : Bytes) : List (FieldName × Int) :=
  row.fields.map fun f => (f.1, fieldValue body f.2)

/-- The decoded command (R37, R172). -/
def cmdOf (row : CmdRow) (id : Byte) (dir : Direction) (body : Bytes) : Cmd :=
  ⟨id, dir, row.name, body, rowFields row body⟩

/-- The walk from a cursor `pos` on, over the bytes that remain (R172): it stops at an identifier without a row (R173)
and at a body cut short (R174). The first argument bounds the commands; the remaining length is always enough (R40). -/
def walk (tab : CmdTab) (dir : Direction) : Nat → Nat → Bytes → CmdStream
  | 0, _, _ => ⟨[], .complete⟩
  | _ + 1, _, [] => ⟨[], .complete⟩
  | n + 1, pos, id :: rest =>
    match tab id dir with
    | none => ⟨[], .unrecognized id pos⟩
    | some row =>
      if rest.length < row.len then ⟨[], .shortBody id pos⟩
      else
        let after := walk tab dir n (pos + 1 + row.len) (rest.drop row.len)
        ⟨cmdOf row id dir (rest.take row.len) :: after.cmds, after.stop⟩

/-- `macparse(s, dir)` (R172). -/
def macparse (tab : CmdTab) (s : Bytes) (dir : Direction) : CmdStream := walk tab dir s.length 0 s

/-- The operation of R172 on a stream and a direction. -/
def runMacparse (cfg : Config) (stream : Bytes) (dir : Direction) (s : State) : Host.Outcome State Fault Refusal :=
  let r := macparse cfg.cmdtab stream dir
  deliver s (Work.noteStop r.stop { report := { stream := some r, direction := some dir } }) []

/-- MACPARSE (R172). -/
def opMacparse (cfg : Config) (s : State) : Host.Outcome State Fault Refusal :=
  withInput cfg s fun input => withDir s fun dir => runMacparse cfg input dir s

/-- MACPARSE, `OP` = 3. -/
def execMacparse (s : State) : Host.Outcome State Fault Refusal := opMacparse Config.hw s

/-- One command as an instruction: the walk of R172 on the stream that is this command (log 13). -/
def runCommand (dir : Direction) (id : Byte) (body : Bytes) (s : State) : Host.Outcome State Fault Refusal :=
  runMacparse Config.hw (id :: body) dir s

/-- R181. -/
def execLinkCheckReq (body : Bytes) (s : State) : Host.Outcome State Fault Refusal := runCommand .uplink 0x02 body s
/-- R182. -/
def execLinkADRAns (body : Bytes) (s : State) : Host.Outcome State Fault Refusal := runCommand .uplink 0x03 body s
/-- R183. -/
def execDutyCycleAns (body : Bytes) (s : State) : Host.Outcome State Fault Refusal := runCommand .uplink 0x04 body s
/-- R184. -/
def execRXParamSetupAns (body : Bytes) (s : State) : Host.Outcome State Fault Refusal := runCommand .uplink 0x05 body s
/-- R185. -/
def execDevStatusAns (body : Bytes) (s : State) : Host.Outcome State Fault Refusal := runCommand .uplink 0x06 body s
/-- R186. -/
def execNewChannelAns (body : Bytes) (s : State) : Host.Outcome State Fault Refusal := runCommand .uplink 0x07 body s
/-- R187. -/
def execRXTimingSetupAns (body : Bytes) (s : State) : Host.Outcome State Fault Refusal := runCommand .uplink 0x08 body s
/-- R188. -/
def execTxParamSetupAns (body : Bytes) (s : State) : Host.Outcome State Fault Refusal := runCommand .uplink 0x09 body s
/-- R189. -/
def execDlChannelAns (body : Bytes) (s : State) : Host.Outcome State Fault Refusal := runCommand .uplink 0x0A body s
/-- R190. -/
def execLinkCheckAns (body : Bytes) (s : State) : Host.Outcome State Fault Refusal := runCommand .downlink 0x02 body s
/-- R191. -/
def execLinkADRReq (body : Bytes) (s : State) : Host.Outcome State Fault Refusal := runCommand .downlink 0x03 body s
/-- R192. -/
def execDutyCycleReq (body : Bytes) (s : State) : Host.Outcome State Fault Refusal := runCommand .downlink 0x04 body s
/-- R193. -/
def execRXParamSetupReq (body : Bytes) (s : State) : Host.Outcome State Fault Refusal := runCommand .downlink 0x05 body s
/-- R194. -/
def execDevStatusReq (body : Bytes) (s : State) : Host.Outcome State Fault Refusal := runCommand .downlink 0x06 body s
/-- R195. -/
def execNewChannelReq (body : Bytes) (s : State) : Host.Outcome State Fault Refusal := runCommand .downlink 0x07 body s
/-- R196. -/
def execRXTimingSetupReq (body : Bytes) (s : State) : Host.Outcome State Fault Refusal := runCommand .downlink 0x08 body s
/-- R197. -/
def execTxParamSetupReq (body : Bytes) (s : State) : Host.Outcome State Fault Refusal := runCommand .downlink 0x09 body s
/-- R198. -/
def execDlChannelReq (body : Bytes) (s : State) : Host.Outcome State Fault Refusal := runCommand .downlink 0x0A body s

end Sys2Proof.Machine
end

