-- ==== Sys2Proof/Machine/Flags.lean ====
section
/-! DEFINITION. The numbers behind the status values: `STATUS` (R31), `ERR` (R261), `ERR_INFO` (R32) and `ftype`
(R82). The block has no condition codes (R41). -/

namespace Sys2Proof.Machine

/-- `STATUS` as its bit (R31). -/
def Status.bit : Status → Bit
  | .idle => 0
  | .done => 1

/-- `ERR` as its 3 bits (R261). -/
def Err.code : Err → BitVec 3
  | .ok => 0
  | .malformedHexInput => 1
  | .truncatedFrame => 2
  | .unsupportedFrameType _ => 3
  | .conflictingCommandPlacement => 4
  | .unrecognizedCommand _ _ => 5
  | .missingKey _ => 6
  | .malformedLength _ => 7

/-- `ERR_INFO` (R32). -/
inductive ErrInfo where
  | none
  | ftype (t : FrameType)
  | command (id : Byte) (pos : Nat)
  | key (kind : KeyKind)
  | place (p : Place)
  deriving DecidableEq, Repr

/-- `ERR_INFO` of each error kind (R261). -/
def Err.info : Err → ErrInfo
  | .ok => .none
  | .malformedHexInput => .none
  | .truncatedFrame => .none
  | .unsupportedFrameType t => .ftype t
  | .conflictingCommandPlacement => .none
  | .unrecognizedCommand id pos => .command id pos
  | .missingKey kind => .key kind
  | .malformedLength p => .place p

/-- The number of a frame type (R82). -/
def FrameType.code : FrameType → BitVec 3
  | .joinRequest => 0
  | .joinAccept => 1
  | .unconfirmedUp => 2
  | .unconfirmedDown => 3
  | .confirmedUp => 4
  | .confirmedDown => 5
  | .reserved => 6
  | .proprietary => 7

/-- The frame type of a number 0..7 (R82). -/
def frameTypeOf : Nat → FrameType
  | 0 => .joinRequest
  | 1 => .joinAccept
  | 2 => .unconfirmedUp
  | 3 => .unconfirmedDown
  | 4 => .confirmedUp
  | 5 => .confirmedDown
  | 6 => .reserved
  | _ => .proprietary

end Sys2Proof.Machine
end

