-- ==== Sys2Proof/Machine/Header.lean ====
section
/-! DEFINITION. The bit-field decoders MHDR and FCTRL and the frame-header dissector FHDR
(spec/41_frame_header.md). -/

namespace Sys2Proof.Machine

/-- `mhdr(m)` (R143). -/
def mhdr (m : Byte) : Mhdr := ⟨frameTypeOf (bits m 7 5), BitVec.ofNat 3 (bits m 4 2), BitVec.ofNat 2 (bits m 1 0)⟩

/-- `direction(ftype)` (R144). -/
def direction : FrameType → Option Direction
  | .joinRequest => none
  | .joinAccept => some .downlink
  | .unconfirmedUp => some .uplink
  | .unconfirmedDown => some .downlink
  | .confirmedUp => some .uplink
  | .confirmedDown => some .downlink
  | .reserved => none
  | .proprietary => none

/-- `fctrl(c, dir)` (R147, R148, R149). -/
def fctrl (c : Byte) : Direction → Fctrl
  | .downlink =>
    { raw := c, adr := bit c 7, rfu6 := some (bit c 6), ack := bit c 5, fpending := some (bit c 4),
      foptslen := BitVec.ofNat 4 (bits c 3 0) }
  | .uplink =>
    { raw := c, adr := bit c 7, adrackreq := some (bit c 6), ack := bit c 5, classb := some (bit c 4),
      foptslen := BitVec.ofNat 4 (bits c 3 0) }

/-- MHDR (R141). -/
def opMhdr (cfg : Config) (s : State) : Host.Outcome State Fault Refusal :=
  withInput cfg s fun input =>
    if input.length = 1 then
      let h := mhdr (byteAt input 0)
      deliver s { report := { mhdr := some h, direction := direction h.ftype } } []
    else deliver s (raise (.malformedLength .mhdr) {}).work []

/-- FCTRL (R146). -/
def opFctrl (cfg : Config) (s : State) : Host.Outcome State Fault Refusal :=
  withInput cfg s fun input =>
    withDir s fun dir =>
      if input.length = 1 then deliver s { report := { fctrl := some (fctrl (byteAt input 0) dir) } } []
      else deliver s (raise (.malformedLength .fctrl) {}).work []

/-- The fixed seven bytes of a data-frame body (R151, R152, R63). -/
def fixedPart (body : Bytes) (dir : Direction) (hi : BitVec 16) : DataReport :=
  let fcnt16 := BitVec.ofNat 16 (le (slice body 5 7))
  { devAddr := some (BitVec.ofNat 32 (le (slice body 0 4)))
    fctrl := some (fctrl (byteAt body 4) dir)
    fcnt16 := some fcnt16
    fcnt32 := some (hi ++ fcnt16) }

/-- The class of a present port when it is no conflict (R156, R157, R158). -/
def portClass (diagPort port : Byte) : FrmClass :=
  if port = diagPort then .diagnostic else if port = 0 then .commands else .appData

/-- Port and body (R154), after `L` inline-command bytes: the conflict test comes first (R155, D24). -/
def portAndBody (cfg : Config) (body : Bytes) (L : Nat) (d : DataReport) (w : Work) : Flow :=
  if body.length = 7 + L then .goesOn (w.setData { d with frmClass := some .absent })
  else
    let port := byteAt body (7 + L)
    let d := { d with port := some port, frm := some (body.drop (8 + L)) }
    if port = 0 ∧ 0 < L then raise .conflictingCommandPlacement (w.setData { d with frmClass := some .conflict })
    else .goesOn (w.setData { d with frmClass := some (portClass cfg.diagPort port) })

/-- `fhdr(body, dir, hi)` (R150). -/
def fhdr (cfg : Config) (body : Bytes) (dir : Direction) (hi : BitVec 16) (w : Work) : Flow :=
  let w := w.setDirection (some dir)
  if body.length < 7 then raise (.malformedLength .fhdr) w
  else
    let d := fixedPart body dir hi
    let L := bits (byteAt body 4) 3 0
    if body.length < 7 + L then raise (.malformedLength .fopts) (w.setData d)
    else
      let fopts := macparse cfg.cmdtab (slice body 7 (7 + L)) dir
      let d := { d with fopts := some fopts }
      portAndBody cfg body L d ((w.setData d).noteStop fopts.stop)

/-- FHDR (R150): no decryption (R159). -/
def opFhdr (cfg : Config) (s : State) : Host.Outcome State Fault Refusal :=
  withInput cfg s fun input => withDir s fun dir => deliver s (fhdr cfg input dir s.fcntHi {}).work []

/-- MHDR, `OP` = 5. -/
def execMhdr (s : State) : Host.Outcome State Fault Refusal := opMhdr Config.hw s

/-- FCTRL, `OP` = 6. -/
def execFctrl (s : State) : Host.Outcome State Fault Refusal := opFctrl Config.hw s

/-- FHDR, `OP` = 4. -/
def execFhdr (s : State) : Host.Outcome State Fault Refusal := opFhdr Config.hw s

end Sys2Proof.Machine
end

