-- ==== Sys2Proof/Machine/Frame.lean ====
section
/-! DEFINITION. The frame decoder DECODE, the join bodies JOINREQ and JOINACC, and the eight frame types
(spec/43_frame_decoder.md). -/

namespace Sys2Proof.Machine

/-- `joinreq(body)` (R224, R61); none stands for MalformedLength(JOINREQ). -/
def joinreq (body : Bytes) : Option JoinReq :=
  if body.length = 18 then
    some { appId := BitVec.ofNat 64 (le (slice body 0 8))
           devId := BitVec.ofNat 64 (le (slice body 8 16))
           devNonce := slice body 16 18 }
  else none

/-- `joinacc(body)` (R226, R62); none stands for MalformedLength(JOINACC). -/
def joinacc (body : Bytes) : Option JoinAcc :=
  if body.length = 12 ∨ body.length = 28 then
    some { appNonce := BitVec.ofNat 24 (le (slice body 0 3))
           netId := BitVec.ofNat 24 (le (slice body 3 6))
           devAddr := BitVec.ofNat 32 (le (slice body 6 10))
           dlSettings := byteAt body 10
           rxDelay := byteAt body 11
           cflist := if body.length = 28 then some (slice body 12 28) else none }
  else none

/-- Fills `REPORT.joinreq` or raises (R224). -/
def joinreqInto (body : Bytes) (w : Work) : Flow :=
  match joinreq body with
  | some j => .goesOn { w with report := { w.report with joinreq := some j } }
  | none => raise (.malformedLength .joinreq) w

/-- Fills `REPORT.joinacc` or raises (R226). -/
def joinaccInto (body : Bytes) (w : Work) : Flow :=
  match joinacc body with
  | some j => .goesOn { w with report := { w.report with joinacc := some j } }
  | none => raise (.malformedLength .joinacc) w

/-- JOINREQ (R224). -/
def opJoinreq (cfg : Config) (s : State) : Host.Outcome State Fault Refusal :=
  withInput cfg s fun input => deliver s (joinreqInto input {}).work []

/-- JOINACC (R226): the direction is Downlink; on MalformedLength the report is all none (R266). -/
def opJoinacc (cfg : Config) (s : State) : Host.Outcome State Fault Refusal :=
  withInput cfg s fun input =>
    match joinaccInto input {} with
    | .goesOn w => deliver s (w.setDirection (some .downlink)) []
    | .ended w => deliver s w []

/-- An operand DECODE hands to the cipher, in the order of `ORCH_ORDER` (R236). -/
def orchOperand (cfg : Config) (v : BitVec 32) : Quad :=
  match cfg.orchOrder with
  | .host => tobe4 v
  | .wire => tole4 v

/-- The cipher inside DECODE on `D.frm` (R236). It reads the key and `BE` here, and only here (R39); refused where one of
them holds no value (R46, R292). -/
def frmPlainOf (cfg : Config) (s : State) (reg : Reg) (key : Option Block) (dir : Direction) (d : DataReport) :
    Except Refusal Bytes :=
  match key, s.be with
  | none, _ => .error (.noValue reg)
  | some _, none => .error (.noValue .be)
  | some K, some be =>
    .ok (frmCipher cfg.aes128 K dir.bit (orchOperand cfg (d.devAddr.getD 0)) (orchOperand cfg (d.fcnt32.getD 0)) be
      (d.frm.getD []))

/-- Port 0 with the network key (R234, R237). -/
def commandsStep (cfg : Config) (s : State) (dir : Direction) (d : DataReport) (w : Work) : Except Refusal Work :=
  if s.keyNwkV = 1 then
    match frmPlainOf cfg s .keyNwk s.keyNwk dir d with
    | .error r => .error r
    | .ok plain =>
      let cmds := macparse cfg.cmdtab plain dir
      .ok ((w.setData { d with frmPlain := some plain, frmCmds := some cmds }).noteStop cmds.stop)
  else .ok w

/-- An application port with the application key (R234, R238). -/
def appDataStep (cfg : Config) (s : State) (dir : Direction) (d : DataReport) (w : Work) : Except Refusal Work :=
  if s.keyAppV = 1 then
    match frmPlainOf cfg s .keyApp s.keyApp dir d with
    | .error r => .error r
    | .ok plain => .ok (w.setData { d with frmPlain := some plain })
  else .ok w

/-- `payload_step(dir)` (R234): an absent key is no error (R235), a diagnostic body stays raw (R239). -/
def payloadStep (cfg : Config) (s : State) (dir : Direction) (w : Work) : Except Refusal Work :=
  match w.report.data with
  | none => .ok w
  | some d =>
    match d.frmClass with
    | some .commands => commandsStep cfg s dir d w
    | some .appData => appDataStep cfg s dir d w
    | some .absent => .ok w
    | some .diagnostic => .ok w
    | some .conflict => .ok w
    | none => .ok w

/-- A data frame's body (R220): `fhdr`, then `payload_step` unless `fhdr` raised (R234). -/
def dataFrame (cfg : Config) (s : State) (dir : Direction) (body : Bytes) (w : Work) : Except Refusal Work :=
  match fhdr cfg body dir s.fcntHi w with
  | .ended w => .ok w
  | .goesOn w => payloadStep cfg s dir w

/-- Frame type 0 (R225). -/
def frameJoinRequest (body : Bytes) (w : Work) : Except Refusal Work := .ok (joinreqInto body w).work

/-- Frame type 1 (R227). -/
def frameJoinAccept (body : Bytes) (w : Work) : Except Refusal Work := .ok (joinaccInto body w).work

/-- Frame type 2 (R228). -/
def frameUnconfirmedUp (cfg : Config) (s : State) (body : Bytes) (w : Work) : Except Refusal Work :=
  dataFrame cfg s .uplink body w

/-- Frame type 3 (R229). -/
def frameUnconfirmedDown (cfg : Config) (s : State) (body : Bytes) (w : Work) : Except Refusal Work :=
  dataFrame cfg s .downlink body w

/-- Frame type 4 (R232). -/
def frameConfirmedUp (cfg : Config) (s : State) (body : Bytes) (w : Work) : Except Refusal Work :=
  dataFrame cfg s .uplink body w

/-- Frame type 5 (R233). -/
def frameConfirmedDown (cfg : Config) (s : State) (body : Bytes) (w : Work) : Except Refusal Work :=
  dataFrame cfg s .downlink body w

/-- Frame type 6 (R230). -/
def frameReserved (w : Work) : Except Refusal Work := .ok (raise (.unsupportedFrameType .reserved) w).work

/-- Frame type 7 (R231). -/
def frameProprietary (w : Work) : Except Refusal Work := .ok (raise (.unsupportedFrameType .proprietary) w).work

/-- The branch, taken once, on `ftype` alone (R223). -/
def branch (cfg : Config) (s : State) (ftype : FrameType) (body : Bytes) (w : Work) : Except Refusal Work :=
  match ftype with
  | .joinRequest => frameJoinRequest body w
  | .joinAccept => frameJoinAccept body w
  | .unconfirmedUp => frameUnconfirmedUp cfg s body w
  | .unconfirmedDown => frameUnconfirmedDown cfg s body w
  | .confirmedUp => frameConfirmedUp cfg s body w
  | .confirmedDown => frameConfirmedDown cfg s body w
  | .reserved => frameReserved w
  | .proprietary => frameProprietary w

/-- A frame's body, `F[1..n-4)` (R60, R222). -/
def frameBody (F : Bytes) : Bytes := slice F 1 (F.length - 4)

/-- A frame's tag, `F[n-4..n)` (R60, R222). -/
def frameTag (F : Bytes) : Bytes := slice F (F.length - 4) F.length

/-- The phases Split, Header and Branch of R220 on a frame whose header byte decodes to `h`. -/
def runFrame (cfg : Config) (s : State) (h : Mhdr) (F : Bytes) : Host.Outcome State Fault Refusal :=
  if F.length < 5 then deliver s (raise .truncatedFrame {}).work []
  else
    let report : Report :=
      { body := some (frameBody F), tag := some (frameTag F), mhdr := some h, direction := direction h.ftype }
    match branch cfg s h.ftype (frameBody F) { report := report } with
    | .error r => .refused r
    | .ok w => deliver s w []

/-- DECODE (R220). -/
def opDecode (cfg : Config) (s : State) : Host.Outcome State Fault Refusal :=
  withInput cfg s fun F => runFrame cfg s (mhdr (byteAt F 0)) F

/-- A frame type as an instruction: the decode of the frame in `IN` under this header byte (log 12). -/
def runFrameType (h : Mhdr) (s : State) : Host.Outcome State Fault Refusal :=
  withInput Config.hw s fun F => runFrame Config.hw s h F

/-- DECODE, `OP` = 1. -/
def execDecode (s : State) : Host.Outcome State Fault Refusal := opDecode Config.hw s

/-- JOINREQ, `OP` = 7. -/
def execJoinreq (s : State) : Host.Outcome State Fault Refusal := opJoinreq Config.hw s

/-- JOINACC, `OP` = 8. -/
def execJoinacc (s : State) : Host.Outcome State Fault Refusal := opJoinacc Config.hw s

/-- R225. -/
def execFtJoinrequest (rfu : BitVec 3) (major : BitVec 2) (s : State) : Host.Outcome State Fault Refusal :=
  runFrameType ⟨.joinRequest, rfu, major⟩ s
/-- R227. -/
def execFtJoinaccept (rfu : BitVec 3) (major : BitVec 2) (s : State) : Host.Outcome State Fault Refusal :=
  runFrameType ⟨.joinAccept, rfu, major⟩ s
/-- R228. -/
def execFtUnconfirmedup (rfu : BitVec 3) (major : BitVec 2) (s : State) : Host.Outcome State Fault Refusal :=
  runFrameType ⟨.unconfirmedUp, rfu, major⟩ s
/-- R229. -/
def execFtUnconfirmeddown (rfu : BitVec 3) (major : BitVec 2) (s : State) : Host.Outcome State Fault Refusal :=
  runFrameType ⟨.unconfirmedDown, rfu, major⟩ s
/-- R232. -/
def execFtConfirmedup (rfu : BitVec 3) (major : BitVec 2) (s : State) : Host.Outcome State Fault Refusal :=
  runFrameType ⟨.confirmedUp, rfu, major⟩ s
/-- R233. -/
def execFtConfirmeddown (rfu : BitVec 3) (major : BitVec 2) (s : State) : Host.Outcome State Fault Refusal :=
  runFrameType ⟨.confirmedDown, rfu, major⟩ s
/-- R230. -/
def execFtReserved (rfu : BitVec 3) (major : BitVec 2) (s : State) : Host.Outcome State Fault Refusal :=
  runFrameType ⟨.reserved, rfu, major⟩ s
/-- R231. -/
def execFtProprietary (rfu : BitVec 3) (major : BitVec 2) (s : State) : Host.Outcome State Fault Refusal :=
  runFrameType ⟨.proprietary, rfu, major⟩ s

end Sys2Proof.Machine
end

