-- ==== Sys2Proof/Syntax.lean ====
section
/-! DEFINITION. The instructions: one constructor per row of spec/opcode_table.json, and the four formats its rows
stand in (R105). -/

namespace Sys2Proof

/-- The format an instruction's bytes are read in (the table's "format"). -/
inductive Format where
  /-- Group `OP`: the 4-bit value of the `OP` register, in one byte (R100). -/
  | op
  /-- Group `MHDR`: the header byte (R81, R82). -/
  | mhdr
  /-- Groups `CID-UP` and `CID-DN`: an identifier byte and its body, for a direction (R91). -/
  | cmd (dir : Direction)
  deriving DecidableEq, Repr

/-- The instructions. The operations of group `OP` take their operands from the request registers (R39); a frame type
carries the header byte's other two fields (R81); a command carries its body (R91). -/
inductive Instr where
  -- group OP (R100)
  | decode
  | cipher
  | macparse
  | fhdr
  | mhdr
  | fctrl
  | joinreq
  | joinacc
  | aesblk
  -- group MHDR (R82)
  | ftJoinrequest (rfu : BitVec 3) (major : BitVec 2)
  | ftJoinaccept (rfu : BitVec 3) (major : BitVec 2)
  | ftUnconfirmedup (rfu : BitVec 3) (major : BitVec 2)
  | ftUnconfirmeddown (rfu : BitVec 3) (major : BitVec 2)
  | ftConfirmedup (rfu : BitVec 3) (major : BitVec 2)
  | ftConfirmeddown (rfu : BitVec 3) (major : BitVec 2)
  | ftReserved (rfu : BitVec 3) (major : BitVec 2)
  | ftProprietary (rfu : BitVec 3) (major : BitVec 2)
  -- group CID-UP (R181 to R189)
  | linkCheckReq (body : Bytes)
  | linkADRAns (body : Bytes)
  | dutyCycleAns (body : Bytes)
  | rxParamSetupAns (body : Bytes)
  | devStatusAns (body : Bytes)
  | newChannelAns (body : Bytes)
  | rxTimingSetupAns (body : Bytes)
  | txParamSetupAns (body : Bytes)
  | dlChannelAns (body : Bytes)
  -- group CID-DN (R190 to R198)
  | linkCheckAns (body : Bytes)
  | linkADRReq (body : Bytes)
  | dutyCycleReq (body : Bytes)
  | rxParamSetupReq (body : Bytes)
  | devStatusReq (body : Bytes)
  | newChannelReq (body : Bytes)
  | rxTimingSetupReq (body : Bytes)
  | txParamSetupReq (body : Bytes)
  | dlChannelReq (body : Bytes)
  deriving DecidableEq, Repr

/-- The table group an instruction stands in (R105). -/
def Instr.format : Instr → Format
  | .decode | .cipher | .macparse | .fhdr | .mhdr | .fctrl | .joinreq | .joinacc | .aesblk => .op
  | .ftJoinrequest _ _ | .ftJoinaccept _ _ | .ftUnconfirmedup _ _ | .ftUnconfirmeddown _ _
  | .ftConfirmedup _ _ | .ftConfirmeddown _ _ | .ftReserved _ _ | .ftProprietary _ _ => .mhdr
  | .linkCheckReq _ | .linkADRAns _ | .dutyCycleAns _ | .rxParamSetupAns _ | .devStatusAns _
  | .newChannelAns _ | .rxTimingSetupAns _ | .txParamSetupAns _ | .dlChannelAns _ => .cmd .uplink
  | .linkCheckAns _ | .linkADRReq _ | .dutyCycleReq _ | .rxParamSetupReq _ | .devStatusReq _
  | .newChannelReq _ | .rxTimingSetupReq _ | .txParamSetupReq _ | .dlChannelReq _ => .cmd .downlink

end Sys2Proof
end

