-- ==== Sys2Proof/Machine/Dispatch.lean ====
section
/-! DEFINITION. One arm per instruction, each a call of its meaning. -/

namespace Sys2Proof.Machine

/-- What an instruction does to a state. -/
def exec (i : Instr) (s : State) : Host.Outcome State Fault Refusal :=
  match i with
  | .decode => Sys2Proof.Machine.execDecode s
  | .cipher => Sys2Proof.Machine.execCipher s
  | .macparse => Sys2Proof.Machine.execMacparse s
  | .fhdr => Sys2Proof.Machine.execFhdr s
  | .mhdr => Sys2Proof.Machine.execMhdr s
  | .fctrl => Sys2Proof.Machine.execFctrl s
  | .joinreq => Sys2Proof.Machine.execJoinreq s
  | .joinacc => Sys2Proof.Machine.execJoinacc s
  | .aesblk => Sys2Proof.Machine.execAesblk s
  | .ftJoinrequest rfu major => Sys2Proof.Machine.execFtJoinrequest rfu major s
  | .ftJoinaccept rfu major => Sys2Proof.Machine.execFtJoinaccept rfu major s
  | .ftUnconfirmedup rfu major => Sys2Proof.Machine.execFtUnconfirmedup rfu major s
  | .ftUnconfirmeddown rfu major => Sys2Proof.Machine.execFtUnconfirmeddown rfu major s
  | .ftConfirmedup rfu major => Sys2Proof.Machine.execFtConfirmedup rfu major s
  | .ftConfirmeddown rfu major => Sys2Proof.Machine.execFtConfirmeddown rfu major s
  | .ftReserved rfu major => Sys2Proof.Machine.execFtReserved rfu major s
  | .ftProprietary rfu major => Sys2Proof.Machine.execFtProprietary rfu major s
  | .linkCheckReq body => Sys2Proof.Machine.execLinkCheckReq body s
  | .linkADRAns body => Sys2Proof.Machine.execLinkADRAns body s
  | .dutyCycleAns body => Sys2Proof.Machine.execDutyCycleAns body s
  | .rxParamSetupAns body => Sys2Proof.Machine.execRXParamSetupAns body s
  | .devStatusAns body => Sys2Proof.Machine.execDevStatusAns body s
  | .newChannelAns body => Sys2Proof.Machine.execNewChannelAns body s
  | .rxTimingSetupAns body => Sys2Proof.Machine.execRXTimingSetupAns body s
  | .txParamSetupAns body => Sys2Proof.Machine.execTxParamSetupAns body s
  | .dlChannelAns body => Sys2Proof.Machine.execDlChannelAns body s
  | .linkCheckAns body => Sys2Proof.Machine.execLinkCheckAns body s
  | .linkADRReq body => Sys2Proof.Machine.execLinkADRReq body s
  | .dutyCycleReq body => Sys2Proof.Machine.execDutyCycleReq body s
  | .rxParamSetupReq body => Sys2Proof.Machine.execRXParamSetupReq body s
  | .devStatusReq body => Sys2Proof.Machine.execDevStatusReq body s
  | .newChannelReq body => Sys2Proof.Machine.execNewChannelReq body s
  | .rxTimingSetupReq body => Sys2Proof.Machine.execRXTimingSetupReq body s
  | .txParamSetupReq body => Sys2Proof.Machine.execTxParamSetupReq body s
  | .dlChannelReq body => Sys2Proof.Machine.execDlChannelReq body s

end Sys2Proof.Machine
end

