-- ==== Sys2Proof/WellFormed.lean ====
section
/-! DEFINITION. When an instruction term is one the encoding has: a command carries exactly the body length of its row
(R171, R181 to R198). The other constructors' fields are bounded by their types. -/

namespace Sys2Proof

/-- The body a command carries, and the body length N its row fixes; none for an instruction without a body. -/
def Instr.bodyAndLength : Instr → Option (Bytes × Nat)
  | .decode | .cipher | .macparse | .fhdr | .mhdr | .fctrl | .joinreq | .joinacc | .aesblk => none
  | .ftJoinrequest _ _ | .ftJoinaccept _ _ | .ftUnconfirmedup _ _ | .ftUnconfirmeddown _ _
  | .ftConfirmedup _ _ | .ftConfirmeddown _ _ | .ftReserved _ _ | .ftProprietary _ _ => none
  | .linkCheckReq b => some (b, 0)
  | .linkADRAns b => some (b, 1)
  | .dutyCycleAns b => some (b, 0)
  | .rxParamSetupAns b => some (b, 1)
  | .devStatusAns b => some (b, 2)
  | .newChannelAns b => some (b, 1)
  | .rxTimingSetupAns b => some (b, 0)
  | .txParamSetupAns b => some (b, 0)
  | .dlChannelAns b => some (b, 1)
  | .linkCheckAns b => some (b, 2)
  | .linkADRReq b => some (b, 4)
  | .dutyCycleReq b => some (b, 1)
  | .rxParamSetupReq b => some (b, 4)
  | .devStatusReq b => some (b, 0)
  | .newChannelReq b => some (b, 5)
  | .rxTimingSetupReq b => some (b, 1)
  | .txParamSetupReq b => some (b, 1)
  | .dlChannelReq b => some (b, 4)

/-- A command's body has its row's length (R171). -/
def Instr.wellFormed (i : Instr) : Bool :=
  match i.bodyAndLength with
  | none => true
  | some (body, n) => body.length == n

end Sys2Proof
end

