-- ==== Sys2Proof/Decode.lean ====
section
/-! DEFINITION. The decoder, total on any bytes and rejecting by name, and after it the encoder, both written from the
tables of spec/30_encoding.md (R81, R82, R91, R100) and spec/42_mac_commands.md (R181 to R198). -/

namespace Sys2Proof

open Sys2Proof.Machine

/-- Why bytes are no instruction. -/
inductive DecodeError where
  /-- No byte at all. -/
  | noBytes
  /-- The byte is not a 4-bit value, so no `OP` value (R21). -/
  | notFourBits (b : Byte)
  /-- `OP` 0 or 10 to 15 (R101). -/
  | reservedOp (b : Byte)
  /-- An identifier with no row for the direction (R173). -/
  | unknownIdentifier (id : Byte) (dir : Direction)
  /-- A known identifier followed by fewer bytes than its body length (R174). -/
  | shortBody (id : Byte) (dir : Direction)
  deriving DecidableEq, Repr

/-- The operation an `OP` value selects (R100); none for the reserved values (R101). -/
def opOfCode : Nat → Option Instr
  | 1 => some .decode
  | 2 => some .cipher
  | 3 => some .macparse
  | 4 => some .fhdr
  | 5 => some .mhdr
  | 6 => some .fctrl
  | 7 => some .joinreq
  | 8 => some .joinacc
  | 9 => some .aesblk
  | _ => none

/-- The frame type of a header byte's bits 7..5 (R82). -/
def frameOfType (ftype : Nat) (rfu : BitVec 3) (major : BitVec 2) : Instr :=
  match ftype with
  | 0 => .ftJoinrequest rfu major
  | 1 => .ftJoinaccept rfu major
  | 2 => .ftUnconfirmedup rfu major
  | 3 => .ftUnconfirmeddown rfu major
  | 4 => .ftConfirmedup rfu major
  | 5 => .ftConfirmeddown rfu major
  | 6 => .ftReserved rfu major
  | _ => .ftProprietary rfu major

/-- The uplink rows: body length and command (R181 to R189). -/
def uplinkCommand : Nat → Option (Nat × (Bytes → Instr))
  | 0x02 => some (0, .linkCheckReq)
  | 0x03 => some (1, .linkADRAns)
  | 0x04 => some (0, .dutyCycleAns)
  | 0x05 => some (1, .rxParamSetupAns)
  | 0x06 => some (2, .devStatusAns)
  | 0x07 => some (1, .newChannelAns)
  | 0x08 => some (0, .rxTimingSetupAns)
  | 0x09 => some (0, .txParamSetupAns)
  | 0x0A => some (1, .dlChannelAns)
  | _ => none

/-- The downlink rows: body length and command (R190 to R198). -/
def downlinkCommand : Nat → Option (Nat × (Bytes → Instr))
  | 0x02 => some (2, .linkCheckAns)
  | 0x03 => some (4, .linkADRReq)
  | 0x04 => some (1, .dutyCycleReq)
  | 0x05 => some (4, .rxParamSetupReq)
  | 0x06 => some (0, .devStatusReq)
  | 0x07 => some (5, .newChannelReq)
  | 0x08 => some (1, .rxTimingSetupReq)
  | 0x09 => some (1, .txParamSetupReq)
  | 0x0A => some (4, .dlChannelReq)
  | _ => none

/-- The half of the table a direction selects (R92). -/
def commandOf : Direction → Nat → Option (Nat × (Bytes → Instr))
  | .uplink => uplinkCommand
  | .downlink => downlinkCommand

/-- An `OP` value in a byte. -/
def decodeOp (b : Byte) : Except DecodeError Instr :=
  if b.toNat < 16 then
    match opOfCode b.toNat with
    | some i => .ok i
    | none => .error (.reservedOp b)
  else .error (.notFourBits b)

/-- A header byte (R81, R143): every byte decodes (R140). -/
def decodeHeader (b : Byte) : Instr :=
  frameOfType (bits b 7 5) (BitVec.ofNat 3 (bits b 4 2)) (BitVec.ofNat 2 (bits b 1 0))

/-- An identifier and the bytes after it (R91, R172). -/
def decodeCommand (dir : Direction) (id : Byte) (rest : Bytes) : Except DecodeError (Instr × Bytes) :=
  match commandOf dir id.toNat with
  | none => .error (.unknownIdentifier id dir)
  | some (n, mk) =>
    if rest.length < n then .error (.shortBody id dir) else .ok (mk (rest.take n), rest.drop n)

/-- The instruction at the front of a byte sequence read in a format, and the bytes after it. -/
def decode (f : Format) : Bytes → Except DecodeError (Instr × Bytes)
  | [] => .error .noBytes
  | b :: rest =>
    match f with
    | .op => (decodeOp b).map fun i => (i, rest)
    | .mhdr => .ok (decodeHeader b, rest)
    | .cmd dir => decodeCommand dir b rest

/-- The header byte with the three fields of R81: `ftype` in bits 7..5, `rfu` in 4..2, `major` in 1..0. -/
def headerByte (ftype rfu : BitVec 3) (major : BitVec 2) : Byte := ftype ++ rfu ++ major

/-- The bytes of an instruction: its `OP` value (R100), its header byte (R82), or its identifier and body (R91). -/
def encode : Instr → Bytes
  | .decode => [1]
  | .cipher => [2]
  | .macparse => [3]
  | .fhdr => [4]
  | .mhdr => [5]
  | .fctrl => [6]
  | .joinreq => [7]
  | .joinacc => [8]
  | .aesblk => [9]
  | .ftJoinrequest r m => [headerByte 0 r m]
  | .ftJoinaccept r m => [headerByte 1 r m]
  | .ftUnconfirmedup r m => [headerByte 2 r m]
  | .ftUnconfirmeddown r m => [headerByte 3 r m]
  | .ftConfirmedup r m => [headerByte 4 r m]
  | .ftConfirmeddown r m => [headerByte 5 r m]
  | .ftReserved r m => [headerByte 6 r m]
  | .ftProprietary r m => [headerByte 7 r m]
  | .linkCheckReq b => 0x02 :: b
  | .linkADRAns b => 0x03 :: b
  | .dutyCycleAns b => 0x04 :: b
  | .rxParamSetupAns b => 0x05 :: b
  | .devStatusAns b => 0x06 :: b
  | .newChannelAns b => 0x07 :: b
  | .rxTimingSetupAns b => 0x08 :: b
  | .txParamSetupAns b => 0x09 :: b
  | .dlChannelAns b => 0x0A :: b
  | .linkCheckAns b => 0x02 :: b
  | .linkADRReq b => 0x03 :: b
  | .dutyCycleReq b => 0x04 :: b
  | .rxParamSetupReq b => 0x05 :: b
  | .devStatusReq b => 0x06 :: b
  | .newChannelReq b => 0x07 :: b
  | .rxTimingSetupReq b => 0x08 :: b
  | .txParamSetupReq b => 0x09 :: b
  | .dlChannelReq b => 0x0A :: b

/-- The bytes of a table word: bit 0 of the word is bit 0 of the first byte; every bit from `nbits` on is 0. Six
bytes hold the longest instruction (an identifier and five body bytes, R195). -/
def tableBytes (nbits w : Nat) : Bytes := (List.range 6).map fun k => numByte (w % 2 ^ nbits) k

/-- The instruction of a table word. A byte alone does not say its format (the table's groups share their words: 0x02
is CIPHER, LinkCheckReq, LinkCheckAns and a JoinRequest header byte), so the groups are tried from the rows that fix
the most bits of their word to those that fix the fewest: `OP`, `CID-UP`, `CID-DN`, then `MHDR`, which takes every
byte. A word of at most 4 bits is an `OP` value and nothing else. DESIGN CHOICE, unsafe: log 10. -/
def decodeTableWord (nbits w : Nat) : Option Instr :=
  let bytes := tableBytes nbits w
  let read := fun f => (decode f bytes).toOption.map Prod.fst
  if nbits ≤ 4 then read .op
  else (read .op).or ((read (.cmd .uplink)).or ((read (.cmd .downlink)).or (read .mhdr)))

end Sys2Proof
end

