-- ==== Sys2Proof/Machine/Fetch.lean ====
section
/-! DEFINITION. Where an operation comes from: the block has no program counter (R40); a start runs the operation the
`OP` register selects (R21, R100). And the request that makes the next start run a given instruction. -/

namespace Sys2Proof.Machine

/-- The operation a start runs: what `OP` decodes to (R100); refused when `OP` holds no value (R46) or a reserved one
(R101). -/
def fetch (s : State) : Except Refusal Instr :=
  match s.op with
  | none => .error (.noValue .op)
  | some c =>
    match decode .op [c.setWidth 8] with
    | .ok (i, _) => .ok i
    | .error _ => .error (.reservedOp c)

/-- Sixteen zero bytes. -/
def zeroBlock : Block := Vector.replicate 16 0

/-- Writes a whole input sequence: `IN` and `IN_LEN`. -/
def setInput (bs : Bytes) (s : State) : State :=
  { s with inBuf := some (Memory.ofBytes bs), inLen := some bs.length }

/-- Whether `IN[0..IN_LEN)` holds values. -/
def inputReadable (s : State) : Bool :=
  match s.inBuf, s.inLen with
  | some m, some n => (m.readBytes 0 n).isSome
  | _, _ => false

/-- Zeros in every operand register that holds no value and that some operation reads (operand words of zeros); the
input, where it holds no value, becomes `n` zero bytes. What holds a value keeps it. Log 11. -/
def fillOperands (n : Nat) (s : State) : State :=
  let s := if inputReadable s then s else setInput (List.replicate n 0) s
  { s with
    be := some (s.be.getD 0)
    dir := some (s.dir.getD 0)
    ksel := some (s.ksel.getD 0)
    addr := some (s.addr.getD (Vector.replicate 4 0))
    cnt := some (s.cnt.getD (Vector.replicate 4 0))
    keyNwk := if s.keyNwkV = 1 then some (s.keyNwk.getD zeroBlock) else s.keyNwk
    keyApp := if s.keyAppV = 1 then some (s.keyApp.getD zeroBlock) else s.keyApp }

/-- A request for an `OP` value: the shortest input its format has where `IN` holds no value. -/
def requestOp (code : BitVec 4) (n : Nat) (s : State) : State := { fillOperands n s with op := some code }

/-- A request to DECODE a frame of `n` bytes that begins with these bytes, the rest zeros. -/
def requestFrame (header : Bytes) (n : Nat) (s : State) : State :=
  { setInput (header ++ List.replicate (n - 1) 0) (fillOperands n s) with op := some 1 }

/-- A request to MACPARSE the stream that is one command. -/
def requestCommand (dir : Direction) (bytes : Bytes) (s : State) : State :=
  { setInput bytes (fillOperands 0 s) with op := some 3, dir := some dir.bit }

/-- The request that makes the next start run this instruction: for a frame type a DECODE of a shortest frame of that
type (R225 to R233), for a command a MACPARSE of that command (R172). Log 11. -/
def request (i : Instr) (s : State) : State :=
  match i with
  | .decode => requestOp 1 23 s
  | .cipher => requestOp 2 0 s
  | .macparse => requestOp 3 0 s
  | .fhdr => requestOp 4 7 s
  | .mhdr => requestOp 5 1 s
  | .fctrl => requestOp 6 1 s
  | .joinreq => requestOp 7 18 s
  | .joinacc => requestOp 8 12 s
  | .aesblk => requestOp 9 16 s
  | .ftJoinrequest r m => requestFrame (encode (.ftJoinrequest r m)) 23 s
  | .ftJoinaccept r m => requestFrame (encode (.ftJoinaccept r m)) 17 s
  | .ftUnconfirmedup r m => requestFrame (encode (.ftUnconfirmedup r m)) 12 s
  | .ftUnconfirmeddown r m => requestFrame (encode (.ftUnconfirmeddown r m)) 12 s
  | .ftConfirmedup r m => requestFrame (encode (.ftConfirmedup r m)) 12 s
  | .ftConfirmeddown r m => requestFrame (encode (.ftConfirmeddown r m)) 12 s
  | .ftReserved r m => requestFrame (encode (.ftReserved r m)) 5 s
  | .ftProprietary r m => requestFrame (encode (.ftProprietary r m)) 5 s
  | .linkCheckReq b => requestCommand .uplink (encode (.linkCheckReq b)) s
  | .linkADRAns b => requestCommand .uplink (encode (.linkADRAns b)) s
  | .dutyCycleAns b => requestCommand .uplink (encode (.dutyCycleAns b)) s
  | .rxParamSetupAns b => requestCommand .uplink (encode (.rxParamSetupAns b)) s
  | .devStatusAns b => requestCommand .uplink (encode (.devStatusAns b)) s
  | .newChannelAns b => requestCommand .uplink (encode (.newChannelAns b)) s
  | .rxTimingSetupAns b => requestCommand .uplink (encode (.rxTimingSetupAns b)) s
  | .txParamSetupAns b => requestCommand .uplink (encode (.txParamSetupAns b)) s
  | .dlChannelAns b => requestCommand .uplink (encode (.dlChannelAns b)) s
  | .linkCheckAns b => requestCommand .downlink (encode (.linkCheckAns b)) s
  | .linkADRReq b => requestCommand .downlink (encode (.linkADRReq b)) s
  | .dutyCycleReq b => requestCommand .downlink (encode (.dutyCycleReq b)) s
  | .rxParamSetupReq b => requestCommand .downlink (encode (.rxParamSetupReq b)) s
  | .devStatusReq b => requestCommand .downlink (encode (.devStatusReq b)) s
  | .newChannelReq b => requestCommand .downlink (encode (.newChannelReq b)) s
  | .rxTimingSetupReq b => requestCommand .downlink (encode (.rxTimingSetupReq b)) s
  | .txParamSetupReq b => requestCommand .downlink (encode (.txParamSetupReq b)) s
  | .dlChannelReq b => requestCommand .downlink (encode (.dlChannelReq b)) s

/-- The request for a table word (log 10, log 11); a word that is no instruction goes to `OP` as it is. -/
def requestWord (nbits w : Nat) (s : State) : State :=
  match decodeTableWord nbits w with
  | some i => request i s
  | none => { s with op := some (BitVec.ofNat 4 w) }

end Sys2Proof.Machine
end

