-- ==== Sys2Proof/Machine/Step.lean ====
section
/-! DEFINITION. One step is one operation, from the request registers to the result registers (R11, R40, R66). -/

namespace Sys2Proof.Machine

/-- A start: the operation `OP` selects runs (R100); a request without meaning is refused (R277). -/
def step (s : State) : Host.Outcome State Fault Refusal :=
  match fetch s with
  | .error r => .refused r
  | .ok i => exec i s

/-- The state in which the next step runs the instruction of a table word (log 10, log 11). -/
def State.withFetchWord (s : State) (nbits w : Nat) : State := requestWord nbits w s

end Sys2Proof.Machine
end

