-- ==== Sys2Proof/Machine/HexIngest.lean ====
section
/-! DEFINITION. The host's text ingest HexIngest (spec/44_host_hexingest.md). It is host software and no operation of
the block (R6); it is modelled so that a host can make `IN` from text as the source does. Of what R253 leaves open,
commas, `0X`, long or empty dot groups are refused (U26), and so is a text on which the order of the two strip steps
matters; groups separated by whitespace alone merge, as R250 is written. The choices: log 16. -/

namespace Sys2Proof.Machine

/-- What a text gives. -/
inductive IngestResult where
  /-- The byte sequence, index 0 first. -/
  | bytes (bs : Bytes)
  /-- MalformedHexInput (R251). -/
  | malformed
  /-- A text whose treatment the source leaves open (R253). -/
  | undecided
  deriving DecidableEq, Repr

/-- A hexadecimal digit, in either case (R250). -/
def hexDigit (c : Char) : Option Nat :=
  let n := c.toNat
  if 48 ≤ n ∧ n ≤ 57 then some (n - 48)
  else if 97 ≤ n ∧ n ≤ 102 then some (n - 87)
  else if 65 ≤ n ∧ n ≤ 70 then some (n - 55)
  else none

/-- The byte of two hexadecimal digits. -/
def hexByte (a b : Char) : Option Byte :=
  match hexDigit a, hexDigit b with
  | some x, some y => some (BitVec.ofNat 8 (16 * x + y))
  | _, _ => none

/-- Every whitespace character removed. -/
def stripSpace (t : List Char) : List Char := t.filter fun c => !c.isWhitespace

/-- Every occurrence of `0x` in the text removed, in one pass (log 16). -/
def stripToken : List Char → List Char
  | [] => []
  | [c] => [c]
  | c :: d :: t => if c = '0' ∧ d = 'x' then stripToken t else c :: stripToken (d :: t)

/-- The contiguous form: 2-digit bytes; an odd length fails. -/
def contiguous : List Char → IngestResult
  | [] => .bytes []
  | [_] => .malformed
  | a :: b :: t =>
    match hexByte a b, contiguous t with
    | some v, .bytes bs => .bytes (v :: bs)
    | _, _ => .malformed

/-- The groups between the dots. -/
def splitDots : List Char → List (List Char)
  | [] => [[]]
  | c :: t =>
    match splitDots t with
    | g :: gs => if c = '.' then [] :: g :: gs else (c :: g) :: gs
    | [] => [[]]

/-- One dot group: one digit is padded with a zero on the left; an empty or long group is open (R253). -/
def groupByte : List Char → Option (Option Byte)
  | [a] => some (hexByte '0' a)
  | [a, b] => some (hexByte a b)
  | _ => none

/-- The dot form. -/
def dotted : List (List Char) → IngestResult
  | [] => .bytes []
  | g :: gs =>
    match groupByte g, dotted gs with
    | none, _ => .undecided
    | _, .undecided => .undecided
    | some (some v), .bytes bs => .bytes (v :: bs)
    | some _, _ => .malformed

/-- Whether `0X` in capitals stands in a text (R253). -/
def hasCapitalToken : List Char → Bool
  | c :: d :: t => (decide (c = '0') && decide (d = 'X')) || hasCapitalToken (d :: t)
  | _ => false

/-- Whether U26 refuses a text as a whole: a comma, or a `0X` once the strip steps are done. -/
def openText (clean : List Char) : Bool := clean.contains ',' || hasCapitalToken clean

/-- The bytes of a stripped text (R250). Groups that only whitespace separated have merged into one digit stream by
now: one-digit groups among them are not padded. DESIGN CHOICE (R253): log 16. -/
def ingestClean (clean : List Char) : IngestResult :=
  if openText clean then .undecided
  else if clean.contains '.' then dotted (splitDots clean)
  else contiguous clean

/-- HexIngest (R250). The two strip steps in either order: where the results differ the text is open (R253). -/
def hexIngest (t : List Char) : IngestResult :=
  let r := ingestClean (stripToken (stripSpace t))
  if r = ingestClean (stripSpace (stripToken t)) then r else .undecided

end Sys2Proof.Machine
end

