-- ==== Sys2Proof/Machine/HostPort.lean ====
section
/-! DEFINITION. What the host does to the registers between operations (R38): it writes request registers, one move
each, and reads any register. Between operations is the only place a move can land (R66, R298; log 18). -/

namespace Sys2Proof.Machine

/-- A write of a request register (R38). `inBytes` writes bytes of `IN` from an index on (log 17). -/
inductive HostWrite where
  | op (v : BitVec 4)
  | inBytes (off : Nat) (bs : Bytes)
  | inLen (n : Nat)
  | keyNwk (k : Block)
  | keyNwkV (v : Bit)
  | keyApp (k : Block)
  | keyAppV (v : Bit)
  | fcntHi (v : BitVec 16)
  | be (v : Bit)
  | dir (v : Bit)
  | ksel (v : Bit)
  | addr (q : Quad)
  | cnt (q : Quad)
  deriving DecidableEq, Repr

/-- A host write: the register holds exactly what was written (R38); a length above `BUF_MAX` cannot be written
(R15, R277). -/
def hostWrite (cfg : Config) (w : HostWrite) (s : State) : Host.Outcome State Fault Refusal :=
  match w with
  | .op v => .next { s with op := some v }
  | .inBytes off bs =>
    if aboveMax cfg (off + bs.length) then .refused (.aboveBufMax (off + bs.length))
    else .next { s with inBuf := some (Memory.writeBytes (s.inBuf.getD []) off bs) }
  | .inLen n => if aboveMax cfg n then .refused (.aboveBufMax n) else .next { s with inLen := some n }
  | .keyNwk k => .next { s with keyNwk := some k }
  | .keyNwkV v => .next { s with keyNwkV := v }
  | .keyApp k => .next { s with keyApp := some k }
  | .keyAppV v => .next { s with keyAppV := v }
  | .fcntHi v => .next { s with fcntHi := v }
  | .be v => .next { s with be := some v }
  | .dir v => .next { s with dir := some v }
  | .ksel v => .next { s with ksel := some v }
  | .addr q => .next { s with addr := some q }
  | .cnt q => .next { s with cnt := some q }

/-! ### Reads. Every register is readable (R38, R280), and a read changes nothing (R59). -/

/-- A read of a result register: "reading them while `STATUS` = IDLE is refused" (R45, U18, D15). Once `STATUS` = DONE it
gives what the register holds, and R47 has written the whole group. -/
def readResult {α : Type} (s : State) (v : Option α) : Except Refusal (Option α) :=
  match s.status with
  | .idle => .error .resultsWhileIdle
  | .done => .ok v

/-- Reads `STATUS`, in every state (R31). -/
def hostReadStatus (s : State) : Status := s.status

/-- Reads `ERR` and `ERR_INFO`. -/
def hostReadErr (s : State) : Except Refusal (Option Err) := readResult s s.err

/-- Reads `OUT_LEN`. -/
def hostReadOutLen (s : State) : Except Refusal (Option Nat) := readResult s s.outLen

/-- Reads `REPORT`. -/
def hostReadReport (s : State) : Except Refusal (Option Report) := readResult s s.report

/-- Reads one byte of `OUT`, below `OUT_LEN` only (R33, U20). -/
def hostReadOut (s : State) (i : Nat) : Except Refusal (Option Byte) :=
  match readResult s (s.out.bind fun m => m.read i) with
  | .error r => .error r
  | .ok b => if s.outLen.getD 0 ≤ i then .error (.outPastLength i) else .ok b

/-! A read of a request register gives what the host wrote (R38); `none` is the spec's "no value" (R45), which is no
refusal: R46 refuses an operation that needs the register, not a read of it (log 5). -/

/-- Reads `OP`. -/
def hostReadOp (s : State) : Option (BitVec 4) := s.op
/-- Reads one byte of `IN`. -/
def hostReadIn (s : State) (i : Nat) : Option Byte := s.inBuf.bind fun m => m.read i
/-- Reads `IN_LEN`. -/
def hostReadInLen (s : State) : Option Nat := s.inLen
/-- Reads `KEY_NWK`: keys are readable like any request register (R280). -/
def hostReadKeyNwk (s : State) : Option Block := s.keyNwk
/-- Reads `KEY_NWK_V`. -/
def hostReadKeyNwkV (s : State) : Bit := s.keyNwkV
/-- Reads `KEY_APP` (R280). -/
def hostReadKeyApp (s : State) : Option Block := s.keyApp
/-- Reads `KEY_APP_V`. -/
def hostReadKeyAppV (s : State) : Bit := s.keyAppV
/-- Reads `FCNT_HI`. -/
def hostReadFcntHi (s : State) : BitVec 16 := s.fcntHi
/-- Reads `BE`. -/
def hostReadBe (s : State) : Option Bit := s.be
/-- Reads `DIR`. -/
def hostReadDir (s : State) : Option Bit := s.dir
/-- Reads `KSEL`. -/
def hostReadKsel (s : State) : Option Bit := s.ksel
/-- Reads `ADDR`. -/
def hostReadAddr (s : State) : Option Quad := s.addr
/-- Reads `CNT`. -/
def hostReadCnt (s : State) : Option Quad := s.cnt

end Sys2Proof.Machine
end

