-- ==== Sys2Proof/Machine/Program.lean ====
section
/-! DEFINITION. A program in the sense of spec/95_test_vectors.md part 3: a sequence of host moves. -/

namespace Sys2Proof.Machine

/-- A host move: a register write, a start of the operation in `OP`, or the one kind of reset (R291). -/
inductive HostMove where
  | write (w : HostWrite)
  | start
  | reset
  deriving DecidableEq, Repr

/-- A reset falls between steps, never within one (R291). -/
def hostMove (m : HostMove) (s : State) : Host.Outcome State Fault Refusal :=
  match m with
  | .write w => hostWrite Config.hw w s
  | .start => step s
  | .reset => .next State.reset

/-- The state after a sequence of moves: a refused move changes nothing (R277), and the block goes on from a completed
operation whatever its error (R274). -/
def runMoves : List HostMove → State → State
  | [], s => s
  | m :: ms, s => runMoves ms (resume (hostMove m s) s)

end Sys2Proof.Machine
end

