-- ==== Sys2Proof/Safety.lean ====
section
/-! DEFINITION. The terms claims are stated in: what a request is, what input it carries, when an outcome is a result a
claim may rest on, what an operation reads, and the invariant of the state. -/

namespace Sys2Proof.Machine

/-! ### The request -/

/-- The request registers (R21 to R30): everything an operation may read (R44). -/
structure Request where
  op      : Option (BitVec 4)
  inBuf   : Option Memory
  inLen   : Option Nat
  keyNwk  : Option Block
  keyNwkV : Bit
  keyApp  : Option Block
  keyAppV : Bit
  fcntHi  : BitVec 16
  be      : Option Bit
  dir     : Option Bit
  ksel    : Option Bit
  addr    : Option Quad
  cnt     : Option Quad
  deriving DecidableEq, Repr

/-- The request registers of a state. -/
def State.request (s : State) : Request :=
  ⟨s.op, s.inBuf, s.inLen, s.keyNwk, s.keyNwkV, s.keyApp, s.keyAppV, s.fcntHi, s.be, s.dir, s.ksel, s.addr, s.cnt⟩

/-- The input sequence `IN[0..IN_LEN)` holds exactly these bytes (R22). -/
abbrev State.HasInput (s : State) (bs : Bytes) : Prop :=
  s.inLen = some bs.length ∧ (s.inBuf.bind fun m => m.readBytes 0 bs.length) = some bs

/-- The nine operations of R100. -/
def operations : List Instr :=
  [.decode, .cipher, .macparse, .fhdr, .mhdr, .fctrl, .joinreq, .joinacc, .aesblk]

/-- The registers of R39's table that an operation reads whatever its input is. -/
def alwaysRead : Instr → List Reg
  | .decode => [.inBuf, .inLen]
  | .cipher => [.inBuf, .inLen, .be, .dir, .ksel, .addr, .cnt]
  | .macparse => [.inBuf, .inLen, .dir]
  | .fhdr => [.inBuf, .inLen, .dir]
  | .mhdr => [.inBuf, .inLen]
  | .fctrl => [.inBuf, .inLen, .dir]
  | .joinreq => [.inBuf, .inLen]
  | .joinacc => [.inBuf, .inLen]
  | .aesblk => [.inBuf, .inLen, .ksel]
  | .ftJoinrequest _ _ | .ftJoinaccept _ _ | .ftUnconfirmedup _ _ | .ftUnconfirmeddown _ _
  | .ftConfirmedup _ _ | .ftConfirmeddown _ _ | .ftReserved _ _ | .ftProprietary _ _ => [.inBuf, .inLen]
  | .linkCheckReq _ | .linkADRAns _ | .dutyCycleAns _ | .rxParamSetupAns _ | .devStatusAns _
  | .newChannelAns _ | .rxTimingSetupAns _ | .txParamSetupAns _ | .dlChannelAns _
  | .linkCheckAns _ | .linkADRReq _ | .dutyCycleReq _ | .rxParamSetupReq _ | .devStatusReq _
  | .newChannelReq _ | .rxTimingSetupReq _ | .txParamSetupReq _ | .dlChannelReq _ => []

/-- A register holds no value (R45). -/
def holdsNoValue (s : State) : Reg → Bool
  | .op => s.op.isNone
  | .inBuf => s.inBuf.isNone
  | .inLen => s.inLen.isNone
  | .keyNwk => s.keyNwk.isNone
  | .keyApp => s.keyApp.isNone
  | .be => s.be.isNone
  | .dir => s.dir.isNone
  | .ksel => s.ksel.isNone
  | .addr => s.addr.isNone
  | .cnt => s.cnt.isNone
  | .err => s.err.isNone
  | .out => s.out.isNone
  | .outLen => s.outLen.isNone
  | .report => s.report.isNone

/-! ### Outcomes -/

/-- A result a claim may rest on: the operation completed and its result carries no MalformedLength (R266, R305). -/
def Safe (o : Host.Outcome State Fault Refusal) : Prop := ∃ t, o = .next t

/-- The state an operation completed in, MalformedLength or not. -/
def completedIn (o : Host.Outcome State Fault Refusal) (t : State) : Prop :=
  o = .next t ∨ ∃ place, o = .fault (.malformedLength place t)

/-- A change of the state an outcome completed in; a refusal has none. -/
def mapCompleted (f : State → State) : Host.Outcome State Fault Refusal → Host.Outcome State Fault Refusal
  | .next t => .next (f t)
  | .fault (.malformedLength place t) => .fault (.malformedLength place (f t))
  | .refused r => .refused r

/-- A change of the report, where there is one. -/
def State.mapReport (f : Report → Report) (s : State) : State := { s with report := s.report.map f }

/-- A report without what comes from the cipher (R54): `frm_plain` and `frm_cmds`. -/
def Report.withoutPlain (r : Report) : Report :=
  { r with data := r.data.map fun d => { d with frmPlain := none, frmCmds := none } }

/-- The key `KSEL` selects is present and is `K` (R28). -/
def State.SelectedKey (s : State) (K : Block) : Prop :=
  (s.ksel = some 0 ∧ s.keyNwkV = 1 ∧ s.keyNwk = some K) ∨ (s.ksel = some 1 ∧ s.keyAppV = 1 ∧ s.keyApp = some K)

/-- The key `KSEL` selects is absent, and of this kind (R271). -/
def State.SelectedKeyAbsent (s : State) (kind : KeyKind) : Prop :=
  (s.ksel = some 0 ∧ s.keyNwkV = 0 ∧ kind = .network) ∨ (s.ksel = some 1 ∧ s.keyAppV = 0 ∧ kind = .application)

/-- The table of R272: which operation can report which error, with the places of R266. -/
def mayReport : Instr → Err → Bool
  | .decode, .ok => true
  | .decode, .truncatedFrame => true
  | .decode, .unsupportedFrameType _ => true
  | .decode, .conflictingCommandPlacement => true
  | .decode, .unrecognizedCommand _ _ => true
  | .decode, .malformedLength p =>
    decide (p ∈ [Place.joinreq, Place.joinacc, Place.fhdr, Place.fopts, Place.cmdBody])
  | .cipher, .ok => true
  | .cipher, .missingKey _ => true
  | .macparse, .ok => true
  | .macparse, .unrecognizedCommand _ _ => true
  | .macparse, .malformedLength p => decide (p = .cmdBody)
  | .fhdr, .ok => true
  | .fhdr, .conflictingCommandPlacement => true
  | .fhdr, .unrecognizedCommand _ _ => true
  | .fhdr, .malformedLength p => decide (p ∈ [Place.fhdr, Place.fopts, Place.cmdBody])
  | .mhdr, .ok => true
  | .mhdr, .malformedLength p => decide (p = .mhdr)
  | .fctrl, .ok => true
  | .fctrl, .malformedLength p => decide (p = .fctrl)
  | .joinreq, .ok => true
  | .joinreq, .malformedLength p => decide (p = .joinreq)
  | .joinacc, .ok => true
  | .joinacc, .malformedLength p => decide (p = .joinacc)
  | .aesblk, .ok => true
  | .aesblk, .missingKey _ => true
  | .aesblk, .malformedLength p => decide (p = .aesblk)
  | _, _ => false

/-! ### Terms of the frame statements -/

/-- The error a walk's stop leaves when none was recorded before it (R172). -/
def stopErr : StreamStop → Err
  | .complete => .ok
  | .unrecognized id pos => .unrecognizedCommand id pos
  | .shortBody _ _ => .malformedLength .cmdBody

/-- Whether a walk stopped at a body cut short (R174). -/
def StreamStop.isShort : StreamStop → Bool
  | .shortBody _ _ => true
  | .complete => false
  | .unrecognized _ _ => false

/-- A data-frame body written out by its map (R63): four address bytes and two counter bytes, least significant first,
the control byte between them, the inline commands, and what follows them (port and `frm`, or nothing). -/
def dataBody (a0 a1 a2 a3 : Byte) (fc : Byte) (c0 c1 : Byte) (fopts tail : Bytes) : Bytes :=
  [a0, a1, a2, a3, fc, c0, c1] ++ fopts ++ tail

/-- The class of what follows the inline commands, by R154 to R158 with `DIAG_PORT` 224. -/
def tailClass (fopts tail : Bytes) : FrmClass :=
  match tail with
  | [] => .absent
  | p :: _ =>
    if p = 0 ∧ fopts ≠ [] then .conflict
    else if p = 224 then .diagnostic
    else if p = 0 then .commands
    else .appData

/-- What FHDR reports of such a body (R151 to R158): the fields before the cipher. -/
def headerReport (hi : BitVec 16) (dir : Direction) (a0 a1 a2 a3 : Byte) (fc : Byte) (c0 c1 : Byte)
    (fopts tail : Bytes) : DataReport :=
  { devAddr := some (a3 ++ a2 ++ a1 ++ a0)
    fctrl := some (fctrl fc dir)
    fcnt16 := some (c1 ++ c0)
    fcnt32 := some (hi ++ (c1 ++ c0))
    fopts := some (macparse Config.hw.cmdtab fopts dir)
    port := tail.head?
    frm := if tail = [] then none else some tail.tail
    frmClass := some (tailClass fopts tail) }

/-- The error FHDR reports of such a body when its inline commands are not cut short: the first recorded (R270). -/
def headerErr (dir : Direction) (fopts tail : Bytes) : Err :=
  match (macparse Config.hw.cmdtab fopts dir).stop with
  | .complete => if tailClass fopts tail = .conflict then .conflictingCommandPlacement else .ok
  | .unrecognized id pos => .unrecognizedCommand id pos
  | .shortBody _ _ => .malformedLength .cmdBody

/-- What DECODE reports of a data frame around its `data` part (R220, R222). -/
def frameReport (body tag : Bytes) (h : Mhdr) (dir : Direction) (d : DataReport) : Report :=
  { tag := some tag, body := some body, mhdr := some h, direction := some dir, data := some d }

/-! ### The invariant -/

/-- The bytes a decoded stream consumed (R175). -/
def CmdStream.consumed (c : CmdStream) : Nat := (c.cmds.map fun k => 1 + k.body.length).sum

/-- A reported command stream: every command is a row of the default table for the direction, decoded by its rule from
a body of the row's length (R37, R171), and a stop stands where the commands before it end (R175). -/
structure CmdStream.Coherent (dir : Direction) (c : CmdStream) : Prop where
  rows : ∀ k ∈ c.cmds, ∃ row, defaultCmdTab k.id dir = some row ∧ k = cmdOf row k.id dir k.body ∧
    k.body.length = row.len
  unrecognized : ∀ id pos, c.stop = .unrecognized id pos → defaultCmdTab id dir = none ∧ pos = c.consumed
  shortBody : ∀ id pos, c.stop = .shortBody id pos → (defaultCmdTab id dir).isSome ∧ pos = c.consumed

/-- A reported data part: port and `frm` stand together (D14), a plaintext is as long as `frm` (R132), body commands are
the walk of a port-0 plaintext (R237), a diagnostic or conflicting body has no plaintext (R239, R155), and the counters
agree (R97). -/
structure DataReport.Coherent (dir : Direction) (d : DataReport) : Prop where
  portFrm : d.port.isSome = d.frm.isSome
  plainLength : ∀ q, d.frmPlain = some q → ∃ f, d.frm = some f ∧ q.length = f.length
  cmds : ∀ c, d.frmCmds = some c → d.port = some 0 ∧ ∃ q, d.frmPlain = some q ∧ c = macparse defaultCmdTab q dir
  diagnostic : d.port = some 224 → d.frmClass = some .diagnostic ∧ d.frmPlain = none
  conflict : d.frmClass = some .conflict → d.port = some 0 ∧ d.frmPlain = none
  counter : ∀ c, d.fcnt32 = some c → d.fcnt16 = some (c.extractLsb' 0 16)
  inlineCmds : ∀ c, d.fopts = some c → c.Coherent dir

/-- A result: no MalformedHexInput (R262), UnsupportedFrameType with the reported type (R264), a coherent data part and
stream. -/
structure Report.Coherent (e : Err) (r : Report) : Prop where
  noHexError : e ≠ .malformedHexInput
  unsupported : ∀ t, e = .unsupportedFrameType t →
    (t = .reserved ∨ t = .proprietary) ∧ r.direction = none ∧ ∃ h, r.mhdr = some h ∧ h.ftype = t
  data : ∀ d, r.data = some d → ∃ dir, r.direction = some dir ∧ d.Coherent dir
  stream : ∀ c, r.stream = some c → ∃ dir, r.direction = some dir ∧ c.Coherent dir

/-- The invariant of the state: `IN` keeps its canonical form; while `STATUS` is IDLE no result register holds a value
(R45); once it is DONE all of them do, `OUT` lists exactly `OUT_LEN` bytes (R33), and the report is coherent. -/
structure State.Inv (s : State) : Prop where
  inBuf : ∀ m, s.inBuf = some m → m.wf = true
  idle : s.status = .idle → s.err = none ∧ s.out = none ∧ s.outLen = none ∧ s.report = none
  done : s.status = .done → ∃ e q r, s.err = some e ∧ s.out = some (Memory.ofBytes q) ∧ s.outLen = some q.length ∧
    s.report = some r ∧ r.Coherent e

end Sys2Proof.Machine
end

