-- ==== Sys2Proof/Certificates/Slice0/Obligations.lean ====
section
/-! DEFINITION. The statements for the provers. Each docstring names the rule it comes from; `complete s w out` is the
state an operation ends in: `s` with the whole result group rewritten (`STATUS` DONE, `ERR` and `REPORT` from `w`, `OUT`
and `OUT_LEN` from `out`) and no request register changed, which statement `CompleteRewritesResultGroup` says. -/

open Sys2Proof Sys2Proof.Machine

/-! ### Encoding -/

/-- Decoding what was encoded gives the instruction back, whatever follows it (30 R81, R82, R91, R100; 42 R181 to
R198). -/
def Obligations.DecodeOfEncodedInstruction : Prop :=
  ∀ (i : Instr) (rest : Bytes), i.wellFormed = true → decode i.format (encode i ++ rest) = .ok (i, rest)

/-- What decodes is well-formed and its bytes are its encoding: no byte is dropped and no second encoding exists. -/
def Obligations.EncodeOfDecodedBytes : Prop :=
  ∀ (f : Format) (bs rest : Bytes) (i : Instr), decode f bs = .ok (i, rest) →
    i.format = f ∧ i.wellFormed = true ∧ encode i ++ rest = bs

/-- Words written out from the tables of R100, R82 and section 4 of 42_mac_commands.md decode to what they stand for. -/
def Obligations.SampleWordsDecode : Prop :=
  decode .op [0x01] = .ok (.decode, []) ∧ decode .op [0x09] = .ok (.aesblk, []) ∧
  decode .op [0x0A] = .error (.reservedOp 0x0A) ∧
  decode .mhdr [0x5D] = .ok (.ftUnconfirmedup 7 1, []) ∧ decode .mhdr [0xE7] = .ok (.ftProprietary 1 3, []) ∧
  decode (.cmd .uplink) [0x06, 0xFF, 0x20, 0x02] = .ok (.devStatusAns [0xFF, 0x20], [0x02]) ∧
  decode (.cmd .downlink) [0x06, 0xFF] = .ok (.devStatusReq [], [0xFF]) ∧
  decode (.cmd .downlink) [0x03, 0x52, 0xFF, 0x00, 0x01] = .ok (.linkADRReq [0x52, 0xFF, 0x00, 0x01], []) ∧
  decode (.cmd .uplink) [0x80, 0x00] = .error (.unknownIdentifier 0x80 .uplink) ∧
  decode (.cmd .downlink) [0x02, 0x14] = .error (.shortBody 0x02 .downlink)

/-! ### The step -/

/-- `OP` selects the operation (R100): a start runs exactly it. -/
def Obligations.StepRunsDecodedOperation : Prop :=
  ∀ (s : State) (c : BitVec 4) (i : Instr), s.op = some c → decode .op [c.setWidth 8] = .ok (i, []) →
    step s = exec i s

/-- The table of R100 and the reserved values of R101. -/
def Obligations.OpTableSelectsOperation : Prop :=
  (∀ s : State, s.op = some 1 → step s = exec .decode s) ∧
  (∀ s : State, s.op = some 2 → step s = exec .cipher s) ∧
  (∀ s : State, s.op = some 3 → step s = exec .macparse s) ∧
  (∀ s : State, s.op = some 4 → step s = exec .fhdr s) ∧
  (∀ s : State, s.op = some 5 → step s = exec .mhdr s) ∧
  (∀ s : State, s.op = some 6 → step s = exec .fctrl s) ∧
  (∀ s : State, s.op = some 7 → step s = exec .joinreq s) ∧
  (∀ s : State, s.op = some 8 → step s = exec .joinacc s) ∧
  (∀ s : State, s.op = some 9 → step s = exec .aesblk s) ∧
  (∀ (s : State) (c : BitVec 4), s.op = some c → c = 0 ∨ 10 ≤ c.toNat → step s = .refused (.reservedOp c))

/-- A DECODE runs the frame type its first byte decodes to (R220, R223); a truncated frame decodes alike under every
frame type (R221). Frame types as instructions are the model's choice: log 12. -/
def Obligations.DecodeRunsFrameTypeOfHeader : Prop :=
  (∀ (s : State) (F rest : Bytes) (i : Instr), s.op = some 1 → s.HasInput F → decode .mhdr F = .ok (i, rest) →
    step s = exec i s) ∧
  (∀ (s : State) (F : Bytes) (rfu : BitVec 3) (major : BitVec 2), s.HasInput F → F.length < 5 →
    ∀ i ∈ [Instr.ftJoinrequest rfu major, .ftJoinaccept rfu major, .ftUnconfirmedup rfu major,
        .ftUnconfirmeddown rfu major, .ftConfirmedup rfu major, .ftConfirmeddown rfu major, .ftReserved rfu major,
        .ftProprietary rfu major],
      exec i s = .next (complete s { err := .truncatedFrame } []))

/-- A MACPARSE of one command runs that command (R172). Commands as instructions are the model's choice: log 13. -/
def Obligations.MacparseRunsCommand : Prop :=
  ∀ (s : State) (dir : Direction) (bs : Bytes) (i : Instr), s.op = some 3 → s.dir = some dir.bit → s.HasInput bs →
    decode (.cmd dir) bs = .ok (i, []) → step s = exec i s

/-! ### What every operation does to the state -/

/-- The frame of every operation: it completes with the request registers unchanged (R38, R273) and the whole result
group written (R47). That `OUT` holds no value above `OUT_LEN`: log 8. -/
def Obligations.OperationsWriteOnlyResults : Prop :=
  ∀ (i : Instr) (s t : State), completedIn (exec i s) t →
    t.request = s.request ∧ t.status = .done ∧ t.err.isSome ∧ t.outLen.isSome ∧ t.report.isSome ∧
    (∀ j, ((t.out.getD []).read j).isSome ↔ j < t.outLen.getD 0)

/-- What the shared end of an operation leaves (R47, R273). That `OUT` holds no value above `OUT_LEN`: log 8. -/
def Obligations.CompleteRewritesResultGroup : Prop :=
  ∀ (s : State) (w : Work) (out : Bytes),
    (complete s w out).request = s.request ∧ (complete s w out).status = .done ∧
    (complete s w out).err = some w.err ∧ (complete s w out).report = some w.report ∧
    (complete s w out).outLen = some out.length ∧
    (∀ i, hostReadOut (complete s w out) i = if h : i < out.length then .ok (some out[i]) else .error (.outPastLength i))

/-- Nothing but the request steers an operation (R44, R47): two states with the same request registers step to the same
outcome, so no byte or field of an earlier result can be seen later. -/
def Obligations.StepDependsOnRequestAlone : Prop :=
  ∀ s s' : State, s.request = s'.request → step s = step s'

/-- Every operation run again on the same request gives the same result (R59). -/
def Obligations.OperationsAreIdempotent : Prop :=
  ∀ (i : Instr) (s t : State), exec i s = .next t → exec i t = .next t

/-- The invariant is kept by every step, MalformedLength or not. The default table and `DIAG_PORT` 224 enter it: log
3, log 4. -/
def Obligations.StepKeepsInvariant : Prop :=
  ∀ s t : State, s.Inv → completedIn (step s) t → t.Inv

/-- The invariant is kept by every host write (R38). -/
def Obligations.HostWriteKeepsInvariant : Prop :=
  ∀ (cfg : Config) (w : HostWrite) (s t : State), s.Inv → hostWrite cfg w s = .next t → t.Inv

/-- The state after reset meets the invariant. -/
def Obligations.ResetMeetsInvariant : Prop := State.reset.Inv

/-- The values of R45 and R290. -/
def Obligations.ResetValues : Prop :=
  State.reset.status = .idle ∧ State.reset.keyNwkV = 0 ∧ State.reset.keyAppV = 0 ∧ State.reset.fcntHi = 0 ∧
  State.reset.op = none ∧ State.reset.inBuf = none ∧ State.reset.inLen = none ∧ State.reset.keyNwk = none ∧
  State.reset.keyApp = none ∧ State.reset.be = none ∧ State.reset.dir = none ∧ State.reset.ksel = none ∧
  State.reset.addr = none ∧ State.reset.cnt = none ∧ State.reset.err = none ∧ State.reset.out = none ∧
  State.reset.outLen = none ∧ State.reset.report = none

/-- The table of R272, with the places of R266: which operation can report which error. -/
def Obligations.ErrorsOfEachOperation : Prop :=
  ∀ (i : Instr) (s t : State) (e : Err), i ∈ operations → completedIn (exec i s) t → t.err = some e →
    mayReport i e = true

/-- `ERR` codes and `ERR_INFO` of R261. -/
def Obligations.ErrorCodes : Prop :=
  Err.ok.code = 0 ∧ Err.malformedHexInput.code = 1 ∧ Err.truncatedFrame.code = 2 ∧
  (∀ t, (Err.unsupportedFrameType t).code = 3 ∧ (Err.unsupportedFrameType t).info = .ftype t) ∧
  Err.conflictingCommandPlacement.code = 4 ∧
  (∀ id pos, (Err.unrecognizedCommand id pos).code = 5 ∧ (Err.unrecognizedCommand id pos).info = .command id pos) ∧
  (∀ k, (Err.missingKey k).code = 6 ∧ (Err.missingKey k).info = .key k) ∧
  (∀ p, (Err.malformedLength p).code = 7 ∧ (Err.malformedLength p).info = .place p) ∧
  Err.ok.info = .none ∧ Err.malformedHexInput.info = .none ∧ Err.truncatedFrame.info = .none ∧
  Err.conflictingCommandPlacement.info = .none

/-! ### Refusals -/

/-- R46 with the table of R39: an operation that reads a register holding no value is refused; so is one whose
selected key is marked valid and holds no value, and one whose `IN_LEN` reaches a byte of `IN` that was not written. That
the table is read before the operation begins: log 6. That an unwritten byte of a written `IN` holds no value: log 9. -/
def Obligations.UnwrittenRegisterRefused : Prop :=
  (∀ (i : Instr) (s : State) (r : Reg), r ∈ alwaysRead i → holdsNoValue s r = true →
    ∃ q, exec i s = .refused q) ∧
  (∀ (i : Instr) (s : State), i ∈ [Instr.cipher, Instr.aesblk] →
    (s.ksel = some 0 ∧ s.keyNwkV = 1 ∧ s.keyNwk = none) ∨ (s.ksel = some 1 ∧ s.keyAppV = 1 ∧ s.keyApp = none) →
    ∃ q, exec i s = .refused q) ∧
  (∀ (i : Instr) (s : State) (m : Memory) (n j : Nat), Reg.inBuf ∈ alwaysRead i → s.inBuf = some m →
    s.inLen = some n → j < n → m.read j = none → ∃ q, exec i s = .refused q)

/-- A length above `BUF_MAX` is refused by every operation and cannot be written (R15, R277), in every configuration. -/
def Obligations.LengthAboveBufMaxRefused : Prop :=
  ∀ (cfg : Config) (s : State) (m n : Nat), cfg.bufMax = some m → m < n →
    (s.inLen = some n →
      ∀ op ∈ [opDecode, opCipher, opMacparse, opFhdr, opMhdr, opFctrl, opJoinreq, opJoinacc, opAesblk],
        op cfg s = .refused (.aboveBufMax n)) ∧
    hostWrite cfg (.inLen n) s = .refused (.aboveBufMax n) ∧
    (∀ off bs, off + bs.length = n → hostWrite cfg (.inBytes off bs) s = .refused (.aboveBufMax n))

/-- Bytes of `IN` at index `IN_LEN` and above are never read (R22): changing them changes no result. -/
def Obligations.BytesPastLengthNotRead : Prop :=
  ∀ (i : Instr) (s : State) (m m' : Memory) (n : Nat), s.inBuf = some m → s.inLen = some n →
    (∀ j, j < n → m'.read j = m.read j) →
    exec i { s with inBuf := some m' } = mapCompleted (fun t => { t with inBuf := some m' }) (exec i s)

/-- The 16 bytes of a key whose valid bit is 0 are never read (R23, R24): changing them changes no result. -/
def Obligations.AbsentKeyNotRead : Prop :=
  (∀ (i : Instr) (s : State) (k : Option Block), s.keyNwkV = 0 →
    exec i { s with keyNwk := k } = mapCompleted (fun t => { t with keyNwk := k }) (exec i s)) ∧
  (∀ (i : Instr) (s : State) (k : Option Block), s.keyAppV = 0 →
    exec i { s with keyApp := k } = mapCompleted (fun t => { t with keyApp := k }) (exec i s))

/-! ### The cipher family -/

/-- AESBLK (R122): the block encrypted; MissingKey before the length test; a wrong length is a fault (R266). That a
MalformedLength result is a fault that holds the completed state is the model's form: log 7. -/
def Obligations.AesblkResult : Prop :=
  (∀ (s : State) (K B : Block), s.HasInput B.toList → s.SelectedKey K →
    exec .aesblk s = .next (complete s {} (Config.hw.aes128 K B).toList)) ∧
  (∀ (s : State) (bs : Bytes) (kind : KeyKind), s.HasInput bs → s.SelectedKeyAbsent kind →
    exec .aesblk s = .next (complete s { err := .missingKey kind } [])) ∧
  (∀ (s : State) (bs : Bytes) (K : Block), s.HasInput bs → s.SelectedKey K → bs.length ≠ 16 →
    exec .aesblk s = .fault (.malformedLength .aesblk (complete s { err := .malformedLength .aesblk } [])))

/-- CIPHER (R130): the output of `frm_cipher` for every length; MissingKey when the selected key is absent. -/
def Obligations.CipherResult : Prop :=
  (∀ (s : State) (P : Bytes) (K : Block) (d : Direction) (addr cnt : Quad) (be : Bit), s.HasInput P →
    s.SelectedKey K → s.dir = some d.bit → s.addr = some addr → s.cnt = some cnt → s.be = some be →
    exec .cipher s = .next (complete s {} (frmCipher Config.hw.aes128 K d.bit addr cnt be P))) ∧
  (∀ (s : State) (P : Bytes) (d : Direction) (addr cnt : Quad) (be : Bit) (kind : KeyKind), s.HasInput P →
    s.SelectedKeyAbsent kind → s.dir = some d.bit → s.addr = some addr → s.cnt = some cnt → s.be = some be →
    exec .cipher s = .next (complete s { err := .missingKey kind } []))

/-- `frm_cipher` byte by byte (R129, R128, R126, R123, R124, R132): for every `AES128`, output byte j is the payload byte
xor byte j mod 16 of the encryption of block A number j / 16 + 1, and the length is the payload's. -/
def Obligations.FrmCipherBytes : Prop :=
  ∀ (aes : Block → Block → Block) (K : Block) (d : Direction) (addr cnt : Quad) (P : Bytes),
    (frmCipher aes K d.bit addr cnt 0 P).length = P.length ∧
    (frmCipher aes K d.bit addr cnt 1 P).length = P.length ∧
    ∀ (j : Nat) (h : j < P.length),
      (frmCipher aes K d.bit addr cnt 0 P)[j]? =
        some (P[j] ^^^ (aes K #v[1, 0, 0, 0, 0, if d = .uplink then 0 else 1,
          addr[0], addr[1], addr[2], addr[3], cnt[0], cnt[1], cnt[2], cnt[3], 0,
          BitVec.ofNat 8 ((j / 16 + 1) % 256)])[j % 16]) ∧
      (frmCipher aes K d.bit addr cnt 1 P)[j]? =
        some (P[j] ^^^ (aes K #v[1, 0, 0, 0, 0, if d = .uplink then 0 else 1,
          addr[3], addr[2], addr[1], addr[0], cnt[3], cnt[2], cnt[1], cnt[0], 0,
          BitVec.ofNat 8 ((j / 16 + 1) % 256)])[j % 16])

/-- The transform is its own inverse for every `AES128` (R131). -/
def Obligations.FrmCipherSelfInverse : Prop :=
  ∀ (aes : Block → Block → Block) (K : Block) (dir : Bit) (addr cnt : Quad) (be : Bit) (P : Bytes),
    frmCipher aes K dir addr cnt be (frmCipher aes K dir addr cnt be P) = P

/-- The keystream repeats with a period of 256 blocks, 4096 bytes (R127, R302): one keystream byte is xored onto both
positions. -/
def Obligations.KeystreamPeriod : Prop :=
  ∀ (aes : Block → Block → Block) (K : Block) (dir : Bit) (addr cnt : Quad) (be : Bit) (P : Bytes) (j : Nat)
    (p p' : Byte), P[j]? = some p → P[j + 4096]? = some p' →
    ∃ k : Byte, (frmCipher aes K dir addr cnt be P)[j]? = some (p ^^^ k) ∧
      (frmCipher aes K dir addr cnt be P)[j + 4096]? = some (p' ^^^ k)

/-- CIPHER run on its own output, every operand unchanged, gives back the input (R131). -/
def Obligations.CipherOperationSelfInverse : Prop :=
  ∀ (s s' t : State) (P : Bytes) (K : Block), s.HasInput P → s.SelectedKey K → exec .cipher s = .next t →
    s' = { t with inBuf := t.out, inLen := t.outLen } →
    exec .cipher s' = .next (complete s' {} P)

/-! ### The bit-field decoders and the dissector -/

/-- MHDR (R141, R143, R144, R82): every header byte `ftype rfu major` gives its three fields and the direction of the
table; any other length than one byte is a fault. That a MalformedLength result is a fault that holds the completed
state is the model's form: log 7. -/
def Obligations.MhdrResult : Prop :=
  (∀ (s : State) (ft rfu : BitVec 3) (major : BitVec 2) (t : FrameType) (dir : Option Direction),
    s.HasInput [ft ++ rfu ++ major] →
    (ft, t, dir) ∈ [((0 : BitVec 3), FrameType.joinRequest, (none : Option Direction)),
      (1, .joinAccept, some .downlink), (2, .unconfirmedUp, some .uplink), (3, .unconfirmedDown, some .downlink),
      (4, .confirmedUp, some .uplink), (5, .confirmedDown, some .downlink), (6, .reserved, none),
      (7, .proprietary, none)] →
    exec .mhdr s = .next (complete s { report := { mhdr := some ⟨t, rfu, major⟩, direction := dir } } [])) ∧
  (∀ (s : State) (bs : Bytes), s.HasInput bs → bs.length ≠ 1 →
    exec .mhdr s = .fault (.malformedLength .mhdr (complete s { err := .malformedLength .mhdr } [])))

/-- FCTRL (R146 to R149): the fields of a control byte `b7 b6 b5 b4 len` in either direction, none of them of the
other direction; any other length than one byte is a fault. That a MalformedLength result is a fault that holds the
completed state is the model's form: log 7. -/
def Obligations.FctrlResult : Prop :=
  (∀ (s : State) (b7 b6 b5 b4 : Bit) (len : BitVec 4), s.HasInput [b7 ++ b6 ++ b5 ++ b4 ++ len] →
    let up : Fctrl :=
      { raw := b7 ++ b6 ++ b5 ++ b4 ++ len, adr := b7, adrackreq := some b6, ack := b5, classb := some b4,
        foptslen := len, rfu6 := none, fpending := none }
    let down : Fctrl :=
      { raw := b7 ++ b6 ++ b5 ++ b4 ++ len, adr := b7, rfu6 := some b6, ack := b5, fpending := some b4,
        foptslen := len, adrackreq := none, classb := none }
    (s.dir = some 0 → exec .fctrl s = .next (complete s { report := { fctrl := some up } } [])) ∧
    (s.dir = some 1 → exec .fctrl s = .next (complete s { report := { fctrl := some down } } []))) ∧
  (∀ (s : State) (bs : Bytes) (d : Bit), s.HasInput bs → s.dir = some d → bs.length ≠ 1 →
    exec .fctrl s = .fault (.malformedLength .fctrl (complete s { err := .malformedLength .fctrl } [])))

/-- FHDR (R150 to R158): a body written out by its map (R63) is dissected; the conflict keeps everything decoded
(R155) and the first recorded error stays (R270). Inline commands that are cut short are a fault that keeps the same
report (R266). That a MalformedLength result is a fault that holds the completed state is the model's form: log 7. -/
def Obligations.FhdrResult : Prop :=
  ∀ (s : State) (dir : Direction) (a0 a1 a2 a3 fc c0 c1 : Byte) (fopts tail : Bytes),
    s.HasInput (dataBody a0 a1 a2 a3 fc c0 c1 fopts tail) → s.dir = some dir.bit →
    (fc.extractLsb' 0 4).toNat = fopts.length →
    let t := complete s
      { err := headerErr dir fopts tail
        report := { direction := some dir, data := some (headerReport s.fcntHi dir a0 a1 a2 a3 fc c0 c1 fopts tail) } }
      []
    ((macparse Config.hw.cmdtab fopts dir).stop.isShort = false → exec .fhdr s = .next t) ∧
    ((macparse Config.hw.cmdtab fopts dir).stop.isShort = true → exec .fhdr s = .fault (.malformedLength .cmdBody t))

/-- FHDR on a body that is too short (R160, R266): below seven bytes nothing is reported but the direction; below 7 +
`foptslen` the fixed part is kept. That a MalformedLength result is a fault that holds the completed state is the
model's form: log 7. -/
def Obligations.FhdrShortBody : Prop :=
  (∀ (s : State) (dir : Direction) (bs : Bytes), s.HasInput bs → s.dir = some dir.bit → bs.length < 7 →
    exec .fhdr s = .fault (.malformedLength .fhdr
      (complete s { err := .malformedLength .fhdr, report := { direction := some dir } } []))) ∧
  (∀ (s : State) (dir : Direction) (a0 a1 a2 a3 fc c0 c1 : Byte) (rest : Bytes),
    s.HasInput ([a0, a1, a2, a3, fc, c0, c1] ++ rest) → s.dir = some dir.bit →
    rest.length < (fc.extractLsb' 0 4).toNat →
    exec .fhdr s = .fault (.malformedLength .fopts (complete s
      { err := .malformedLength .fopts
        report :=
          { direction := some dir
            data := some
              { devAddr := some (a3 ++ a2 ++ a1 ++ a0), fctrl := some (fctrl fc dir), fcnt16 := some (c1 ++ c0),
                fcnt32 := some (s.fcntHi ++ (c1 ++ c0)) } } } [])))

/-! ### The command-stream parser -/

/-- `macparse` (R172, R173, R174) for every table: its result on a stream from the result on what follows the first
command, with the positions counted from the front. -/
def Obligations.MacparseFollowsWalk : Prop :=
  ∀ (tab : CmdTab) (dir : Direction),
    macparse tab [] dir = ⟨[], .complete⟩ ∧
    (∀ (id : Byte) (rest : Bytes), tab id dir = none → macparse tab (id :: rest) dir = ⟨[], .unrecognized id 0⟩) ∧
    (∀ (id : Byte) (rest : Bytes) (row : CmdRow), tab id dir = some row → rest.length < row.len →
      macparse tab (id :: rest) dir = ⟨[], .shortBody id 0⟩) ∧
    (∀ (id : Byte) (body rest : Bytes) (row : CmdRow), tab id dir = some row → body.length = row.len →
      macparse tab (id :: body ++ rest) dir =
        ⟨{ id := id, dir := dir, name := row.name, body := body, fields := rowFields row body } ::
            (macparse tab rest dir).cmds,
          match (macparse tab rest dir).stop with
          | .complete => .complete
          | .unrecognized id' pos => .unrecognized id' (1 + row.len + pos)
          | .shortBody id' pos => .shortBody id' (1 + row.len + pos)⟩)

/-- R175 for every table: the decoded commands are the bytes of the stream up to the stop, each read once and in order,
and at a stop that is not Complete the identifier stands there. -/
def Obligations.MacparseConsumesStream : Prop :=
  ∀ (tab : CmdTab) (s : Bytes) (dir : Direction),
    let r := macparse tab s dir
    (r.cmds.flatMap fun k => k.id :: k.body) = s.take r.consumed ∧ r.consumed ≤ s.length ∧
    r.cmds.length ≤ s.length ∧
    (∀ k ∈ r.cmds, k.dir = dir ∧ ∃ row, tab k.id dir = some row ∧ k.body.length = row.len) ∧
    (r.stop = .complete → r.consumed = s.length) ∧
    (∀ id pos, r.stop = .unrecognized id pos → r.consumed = pos ∧ s[pos]? = some id ∧ tab id dir = none) ∧
    (∀ id pos, r.stop = .shortBody id pos → r.consumed = pos ∧ s[pos]? = some id ∧
      ∃ row, tab id dir = some row ∧ s.length < pos + 1 + row.len)

/-- MACPARSE (R172): the walk of the input, its stop recorded; a cut body is a fault that keeps everything (R266).
That a MalformedLength result is a fault that holds the completed state is the model's form: log 7. -/
def Obligations.MacparseResult : Prop :=
  ∀ (s : State) (dir : Direction) (bs : Bytes), s.HasInput bs → s.dir = some dir.bit →
    let r := macparse Config.hw.cmdtab bs dir
    let t := complete s { err := stopErr r.stop, report := { stream := some r, direction := some dir } } []
    (r.stop.isShort = false → exec .macparse s = .next t) ∧
    (r.stop.isShort = true → exec .macparse s = .fault (.malformedLength .cmdBody t))

/-- A body is at most five bytes and its row's fields read exactly its bytes (R171): the default table meets the
constraint, and every parameter of the
configuration meets its own (R15, R157). The table and the parameter values: log 3, log 4. -/
def Obligations.DefaultConfigurationWellFormed : Prop :=
  Config.hw.WellFormed ∧
  ∀ (id : Byte) (dir : Direction), (defaultCmdTab id dir).isSome = true ↔ 2 ≤ id.toNat ∧ id.toNat ≤ 10

/-- What one command leaves: its stream alone in the report (R172). -/
def oneCommand (s : State) (id : Byte) (dir : Direction) (name : CmdName) (body : Bytes)
    (fields : List (FieldName × Int)) : State :=
  complete s
    { report := { direction := some dir, stream := some ⟨[⟨id, dir, name, body, fields⟩], .complete⟩ } } []

/-- The unsigned value of bits lo .. lo+n-1 of a byte. -/
def uval (b : Byte) (lo n : Nat) : Int := ((b.extractLsb' lo n).toNat : Int)

/-- The nine uplink commands (R181 to R189), for every body of the row's length. Commands as instructions are the
model's choice: log 13; the table's rows: log 3. -/
def Obligations.UplinkCommandResults : Prop :=
  ∀ (s : State) (b c : Byte),
    exec (.linkCheckReq []) s = .next (oneCommand s 0x02 .uplink .linkCheckReq [] []) ∧
    exec (.linkADRAns [b]) s = .next (oneCommand s 0x03 .uplink .linkADRAns [b]
      [(.powerAck, uval b 2 1), (.datarateAck, uval b 1 1), (.chmaskAck, uval b 0 1)]) ∧
    exec (.dutyCycleAns []) s = .next (oneCommand s 0x04 .uplink .dutyCycleAns [] []) ∧
    exec (.rxParamSetupAns [b]) s = .next (oneCommand s 0x05 .uplink .rxParamSetupAns [b]
      [(.rx1droffsetAck, uval b 2 1), (.rx2datarateAck, uval b 1 1), (.channelAck, uval b 0 1)]) ∧
    exec (.devStatusAns [b, c]) s = .next (oneCommand s 0x06 .uplink .devStatusAns [b, c]
      [(.battery, (b.toNat : Int)), (.margin, (c.extractLsb' 0 6).toInt)]) ∧
    exec (.newChannelAns [b]) s = .next (oneCommand s 0x07 .uplink .newChannelAns [b]
      [(.datarateRangeOk, uval b 1 1), (.channelFreqOk, uval b 0 1)]) ∧
    exec (.rxTimingSetupAns []) s = .next (oneCommand s 0x08 .uplink .rxTimingSetupAns [] []) ∧
    exec (.txParamSetupAns []) s = .next (oneCommand s 0x09 .uplink .txParamSetupAns [] []) ∧
    exec (.dlChannelAns [b]) s = .next (oneCommand s 0x0A .uplink .dlChannelAns [b]
      [(.uplinkFreqExists, uval b 1 1), (.channelFreqOk, uval b 0 1)])

/-- The nine downlink commands (R190 to R198), for every body of the row's length. Commands as instructions are the
model's choice: log 13; the table's rows: log 3. -/
def Obligations.DownlinkCommandResults : Prop :=
  ∀ (s : State) (b c d e f : Byte),
    exec (.linkCheckAns [b, c]) s = .next (oneCommand s 0x02 .downlink .linkCheckAns [b, c]
      [(.margin, (b.toNat : Int)), (.gwcnt, (c.toNat : Int))]) ∧
    exec (.linkADRReq [b, c, d, e]) s = .next (oneCommand s 0x03 .downlink .linkADRReq [b, c, d, e]
      [(.datarate, uval b 4 4), (.txpower, uval b 0 4), (.chmask, ((d ++ c : BitVec 16).toNat : Int)),
        (.chmaskcntl, uval e 4 3), (.nbtrans, uval e 0 4)]) ∧
    exec (.dutyCycleReq [b]) s = .next (oneCommand s 0x04 .downlink .dutyCycleReq [b] [(.maxdcycle, uval b 0 4)]) ∧
    exec (.rxParamSetupReq [b, c, d, e]) s = .next (oneCommand s 0x05 .downlink .rxParamSetupReq [b, c, d, e]
      [(.rx1droffset, uval b 4 3), (.rx2datarate, uval b 0 4),
        (.freqHz, ((e ++ d ++ c : BitVec 24).toNat : Int) * 100)]) ∧
    exec (.devStatusReq []) s = .next (oneCommand s 0x06 .downlink .devStatusReq [] []) ∧
    exec (.newChannelReq [b, c, d, e, f]) s = .next (oneCommand s 0x07 .downlink .newChannelReq [b, c, d, e, f]
      [(.chindex, (b.toNat : Int)), (.freqHz, ((e ++ d ++ c : BitVec 24).toNat : Int) * 100),
        (.maxdr, uval f 4 4), (.mindr, uval f 0 4)]) ∧
    exec (.rxTimingSetupReq [b]) s = .next (oneCommand s 0x08 .downlink .rxTimingSetupReq [b] [(.delay, uval b 0 4)]) ∧
    exec (.txParamSetupReq [b]) s = .next (oneCommand s 0x09 .downlink .txParamSetupReq [b]
      [(.downlinkDwell, uval b 5 1), (.uplinkDwell, uval b 4 1), (.maxeirp, uval b 0 4)]) ∧
    exec (.dlChannelReq [b, c, d, e]) s = .next (oneCommand s 0x0A .downlink .dlChannelReq [b, c, d, e]
      [(.chindex, (b.toNat : Int)), (.freqHz, ((e ++ d ++ c : BitVec 24).toNat : Int) * 100)])

/-! ### Join bodies -/

/-- JOINREQ (R224): the identifiers least significant byte first, the nonce as it stands; another length is a fault.
That a MalformedLength result is a fault that holds the completed state is the model's form: log 7. -/
def Obligations.JoinreqResult : Prop :=
  (∀ (s : State) (a0 a1 a2 a3 a4 a5 a6 a7 d0 d1 d2 d3 d4 d5 d6 d7 n0 n1 : Byte),
    s.HasInput [a0, a1, a2, a3, a4, a5, a6, a7, d0, d1, d2, d3, d4, d5, d6, d7, n0, n1] →
    let j : JoinReq :=
      { appId := a7 ++ a6 ++ a5 ++ a4 ++ a3 ++ a2 ++ a1 ++ a0
        devId := d7 ++ d6 ++ d5 ++ d4 ++ d3 ++ d2 ++ d1 ++ d0
        devNonce := [n0, n1] }
    exec .joinreq s = .next (complete s { report := { joinreq := some j } } [])) ∧
  (∀ (s : State) (bs : Bytes), s.HasInput bs → bs.length ≠ 18 →
    exec .joinreq s = .fault (.malformedLength .joinreq (complete s { err := .malformedLength .joinreq } [])))

/-- JOINACC (R226): the 12- and the 28-byte form; another length is a fault. That a MalformedLength result is a fault
that holds the completed state is the model's form: log 7. -/
def Obligations.JoinaccResult : Prop :=
  (∀ (s : State) (a0 a1 a2 n0 n1 n2 d0 d1 d2 d3 dl rx : Byte) (list : Bytes),
    list.length = 0 ∨ list.length = 16 →
    s.HasInput ([a0, a1, a2, n0, n1, n2, d0, d1, d2, d3, dl, rx] ++ list) →
    let j : JoinAcc :=
      { appNonce := a2 ++ a1 ++ a0, netId := n2 ++ n1 ++ n0, devAddr := d3 ++ d2 ++ d1 ++ d0
        dlSettings := dl, rxDelay := rx, cflist := if list = [] then none else some list }
    exec .joinacc s = .next (complete s { report := { direction := some .downlink, joinacc := some j } } [])) ∧
  (∀ (s : State) (bs : Bytes), s.HasInput bs → bs.length ≠ 12 → bs.length ≠ 28 →
    exec .joinacc s = .fault (.malformedLength .joinacc (complete s { err := .malformedLength .joinacc } [])))

/-! ### Frames -/

/-- TruncatedFrame (R221, R263): below five bytes DECODE reports nothing. -/
def Obligations.TruncatedFrameResult : Prop :=
  ∀ (s : State) (F : Bytes), s.HasInput F → F.length < 5 →
    exec .decode s = .next (complete s { err := .truncatedFrame } [])

/-- The split (R222, R60) and the header byte are reported of every frame of five bytes or more, whatever follows. -/
def Obligations.SplitAlwaysReported : Prop :=
  ∀ (s t : State) (h : Byte) (body tag : Bytes), s.HasInput (h :: body ++ tag) → tag.length = 4 →
    completedIn (exec .decode s) t →
    ∃ r, t.report = some r ∧ r.body = some body ∧ r.tag = some tag ∧
      r.mhdr = some ⟨frameTypeOf (h.extractLsb' 5 3).toNat, h.extractLsb' 2 3, h.extractLsb' 0 2⟩

/-- Frame types 0 and 1 (R225, R227): a join-request frame of 23 bytes and a join-accept frame of 17 or 33 bytes
report the decoded body; another body length is a fault that keeps the split (R266). That a MalformedLength result is
a fault that holds the completed state is the model's form: log 7. Frame types as instructions are the model's choice:
log 12. -/
def Obligations.JoinFrameResults : Prop :=
  (∀ (s : State) (rfu : BitVec 3) (major : BitVec 2) (body tag : Bytes) (j : JoinReq),
    s.HasInput (((0 : BitVec 3) ++ rfu ++ major) :: body ++ tag) → tag.length = 4 → joinreq body = some j →
    let t := complete s { report :=
      { tag := some tag, body := some body, mhdr := some ⟨.joinRequest, rfu, major⟩, joinreq := some j } } []
    exec (.ftJoinrequest rfu major) s = .next t ∧ exec .decode s = .next t) ∧
  (∀ (s : State) (rfu : BitVec 3) (major : BitVec 2) (body tag : Bytes) (j : JoinAcc),
    s.HasInput (((1 : BitVec 3) ++ rfu ++ major) :: body ++ tag) → tag.length = 4 → joinacc body = some j →
    let t := complete s { report :=
      { tag := some tag, body := some body, mhdr := some ⟨.joinAccept, rfu, major⟩, direction := some .downlink
        joinacc := some j } } []
    exec (.ftJoinaccept rfu major) s = .next t ∧ exec .decode s = .next t) ∧
  (∀ (s : State) (rfu : BitVec 3) (major : BitVec 2) (body tag : Bytes),
    s.HasInput (((0 : BitVec 3) ++ rfu ++ major) :: body ++ tag) → tag.length = 4 → body.length ≠ 18 →
    let t := complete s
      { err := .malformedLength .joinreq
        report := { tag := some tag, body := some body, mhdr := some ⟨.joinRequest, rfu, major⟩ } } []
    exec (.ftJoinrequest rfu major) s = .fault (.malformedLength .joinreq t) ∧
      exec .decode s = .fault (.malformedLength .joinreq t)) ∧
  (∀ (s : State) (rfu : BitVec 3) (major : BitVec 2) (body tag : Bytes),
    s.HasInput (((1 : BitVec 3) ++ rfu ++ major) :: body ++ tag) → tag.length = 4 → body.length ≠ 12 →
    body.length ≠ 28 →
    let t := complete s
      { err := .malformedLength .joinacc
        report :=
          { tag := some tag, body := some body, mhdr := some ⟨.joinAccept, rfu, major⟩
            direction := some .downlink } } []
    exec (.ftJoinaccept rfu major) s = .fault (.malformedLength .joinacc t) ∧
      exec .decode s = .fault (.malformedLength .joinacc t))

/-- Frame types 6 and 7 (R230, R231, R264): UnsupportedFrameType, with the split, the header byte and no direction.
Frame types as instructions are the model's choice: log 12. -/
def Obligations.UnsupportedFrameResults : Prop :=
  ∀ (s : State) (rfu : BitVec 3) (major : BitVec 2) (body tag : Bytes), tag.length = 4 →
    (s.HasInput (((6 : BitVec 3) ++ rfu ++ major) :: body ++ tag) →
      let t := complete s
        { err := .unsupportedFrameType .reserved
          report := { tag := some tag, body := some body, mhdr := some ⟨.reserved, rfu, major⟩ } } []
      exec (.ftReserved rfu major) s = .next t ∧ exec .decode s = .next t) ∧
    (s.HasInput (((7 : BitVec 3) ++ rfu ++ major) :: body ++ tag) →
      let t := complete s
        { err := .unsupportedFrameType .proprietary
          report := { tag := some tag, body := some body, mhdr := some ⟨.proprietary, rfu, major⟩ } } []
      exec (.ftProprietary rfu major) s = .next t ∧ exec .decode s = .next t)

/-- A property of the four data-frame types with their number, direction and instruction (R228, R229, R232, R233). -/
def ForDataFrames (P : BitVec 3 → FrameType → Direction → (BitVec 3 → BitVec 2 → Instr) → Prop) : Prop :=
  P 2 .unconfirmedUp .uplink .ftUnconfirmedup ∧ P 3 .unconfirmedDown .downlink .ftUnconfirmeddown ∧
  P 4 .confirmedUp .uplink .ftConfirmedup ∧ P 5 .confirmedDown .downlink .ftConfirmeddown

/-- A data frame whose body is not decrypted: no port, the diagnostic port (R239), a conflict (R155), or the key its
port calls for is absent (R235). It reports what FHDR reports; `ERR` is not set for a missing key. Inline commands
that are cut short are a fault that keeps the same report (R266). That a MalformedLength result is a fault that holds
the completed state is the model's form: log 7. Frame types as instructions are the model's choice: log 12. -/
def Obligations.DataFrameWithoutCipher : Prop :=
  ForDataFrames fun ft t dir mk =>
    ∀ (s : State) (rfu : BitVec 3) (major : BitVec 2) (a0 a1 a2 a3 fc c0 c1 : Byte) (fopts tail tag : Bytes),
      let body := dataBody a0 a1 a2 a3 fc c0 c1 fopts tail
      s.HasInput ((ft ++ rfu ++ major) :: body ++ tag) → tag.length = 4 →
      (fc.extractLsb' 0 4).toNat = fopts.length →
      (tailClass fopts tail = .commands → s.keyNwkV = 0) → (tailClass fopts tail = .appData → s.keyAppV = 0) →
      let r := frameReport body tag ⟨t, rfu, major⟩ dir (headerReport s.fcntHi dir a0 a1 a2 a3 fc c0 c1 fopts tail)
      let after := complete s { err := headerErr dir fopts tail, report := r } []
      ((macparse Config.hw.cmdtab fopts dir).stop.isShort = false →
        exec (mk rfu major) s = .next after ∧ exec .decode s = .next after) ∧
      ((macparse Config.hw.cmdtab fopts dir).stop.isShort = true →
        exec (mk rfu major) s = .fault (.malformedLength .cmdBody after) ∧
        exec .decode s = .fault (.malformedLength .cmdBody after))

/-- A data frame whose body is too short (R160, R266, R234): below seven body bytes the split, the header byte and the
direction are kept; below 7 + `foptslen` the fixed part too. No cipher runs. That a MalformedLength result is a fault
that holds the completed state is the model's form: log 7. Frame types as instructions are the model's choice: log 12.
-/
def Obligations.DataFrameShortBody : Prop :=
  ForDataFrames fun ft t dir mk =>
    (∀ (s : State) (rfu : BitVec 3) (major : BitVec 2) (body tag : Bytes),
      s.HasInput ((ft ++ rfu ++ major) :: body ++ tag) → tag.length = 4 → body.length < 7 →
      let after := complete s
        { err := .malformedLength .fhdr
          report :=
            { tag := some tag, body := some body, mhdr := some ⟨t, rfu, major⟩, direction := some dir } } []
      exec (mk rfu major) s = .fault (.malformedLength .fhdr after) ∧
        exec .decode s = .fault (.malformedLength .fhdr after)) ∧
    (∀ (s : State) (rfu : BitVec 3) (major : BitVec 2) (a0 a1 a2 a3 fc c0 c1 : Byte) (rest tag : Bytes),
      let body := [a0, a1, a2, a3, fc, c0, c1] ++ rest
      s.HasInput ((ft ++ rfu ++ major) :: body ++ tag) → tag.length = 4 →
      rest.length < (fc.extractLsb' 0 4).toNat →
      let d : DataReport :=
        { devAddr := some (a3 ++ a2 ++ a1 ++ a0), fctrl := some (fctrl fc dir), fcnt16 := some (c1 ++ c0),
          fcnt32 := some (s.fcntHi ++ (c1 ++ c0)) }
      let after := complete s
        { err := .malformedLength .fopts, report := frameReport body tag ⟨t, rfu, major⟩ dir d } []
      exec (mk rfu major) s = .fault (.malformedLength .fopts after) ∧
        exec .decode s = .fault (.malformedLength .fopts after))

/-- Application data (R238, R236): with the application key the body is decrypted under the frame's direction, address
and 32-bit counter, most significant byte first. The order is `ORCH_ORDER` = host, the spec's default (D9). Where the
inline commands are cut short the body is decrypted all the same (R267) and the result is a fault (R266). That a
MalformedLength result is a fault that holds the completed state is the model's form: log 7. Frame types as
instructions are the model's choice: log 12. The parameter values: log 4. -/
def Obligations.DataFrameAppData : Prop :=
  ForDataFrames fun ft t dir mk =>
    ∀ (s : State) (rfu : BitVec 3) (major : BitVec 2) (a0 a1 a2 a3 fc c0 c1 port : Byte) (fopts frm tag : Bytes)
      (K : Block) (be : Bit),
      let body := dataBody a0 a1 a2 a3 fc c0 c1 fopts (port :: frm)
      s.HasInput ((ft ++ rfu ++ major) :: body ++ tag) → tag.length = 4 →
      (fc.extractLsb' 0 4).toNat = fopts.length → port ≠ 0 → port ≠ 224 → s.keyAppV = 1 → s.keyApp = some K → s.be = some be →
      let plain := frmCipher Config.hw.aes128 K dir.bit #v[a3, a2, a1, a0]
        #v[s.fcntHi.extractLsb' 8 8, s.fcntHi.extractLsb' 0 8, c1, c0] be frm
      let d := { headerReport s.fcntHi dir a0 a1 a2 a3 fc c0 c1 fopts (port :: frm) with frmPlain := some plain }
      let after := complete s
        { err := headerErr dir fopts (port :: frm), report := frameReport body tag ⟨t, rfu, major⟩ dir d } []
      ((macparse Config.hw.cmdtab fopts dir).stop.isShort = false →
        exec (mk rfu major) s = .next after ∧ exec .decode s = .next after) ∧
      ((macparse Config.hw.cmdtab fopts dir).stop.isShort = true →
        exec (mk rfu major) s = .fault (.malformedLength .cmdBody after) ∧
        exec .decode s = .fault (.malformedLength .cmdBody after))

/-- Body commands (R237, R236): port 0 without inline commands, with the network key, is decrypted and walked; a cut
command in it is a fault that keeps everything (R266). That a MalformedLength result is a fault that holds the
completed state is the model's form: log 7. Frame types as instructions are the model's choice: log 12. The operands
stand most significant byte first because `ORCH_ORDER` = host, the spec's default (D9): log 4; the table walked is the
default one: log 3. -/
def Obligations.DataFrameBodyCommands : Prop :=
  ForDataFrames fun ft t dir mk =>
    ∀ (s : State) (rfu : BitVec 3) (major : BitVec 2) (a0 a1 a2 a3 fc c0 c1 : Byte) (frm tag : Bytes) (K : Block)
      (be : Bit),
      let body := dataBody a0 a1 a2 a3 fc c0 c1 [] (0 :: frm)
      s.HasInput ((ft ++ rfu ++ major) :: body ++ tag) → tag.length = 4 → fc.extractLsb' 0 4 = 0 →
      s.keyNwkV = 1 → s.keyNwk = some K → s.be = some be →
      let plain := frmCipher Config.hw.aes128 K dir.bit #v[a3, a2, a1, a0]
        #v[s.fcntHi.extractLsb' 8 8, s.fcntHi.extractLsb' 0 8, c1, c0] be frm
      let cmds := macparse Config.hw.cmdtab plain dir
      let d := { headerReport s.fcntHi dir a0 a1 a2 a3 fc c0 c1 [] (0 :: frm) with
        frmPlain := some plain, frmCmds := some cmds }
      let after := complete s { err := stopErr cmds.stop, report := frameReport body tag ⟨t, rfu, major⟩ dir d } []
      (cmds.stop.isShort = false → exec (mk rfu major) s = .next after ∧ exec .decode s = .next after) ∧
      (cmds.stop.isShort = true → exec (mk rfu major) s = .fault (.malformedLength .cmdBody after) ∧
        exec .decode s = .fault (.malformedLength .cmdBody after))

/-- A cipher that would run without a written `BE`, or with a valid key that holds no value, is refused (R46, R39).
Frame types as instructions are the model's choice: log 12. A valid bit set over a key that holds no value: log 6. -/
def Obligations.CipherInsideDecodeNeedsBeAndKey : Prop :=
  ForDataFrames fun ft _ _ mk =>
    ∀ (s : State) (rfu : BitVec 3) (major : BitVec 2) (a0 a1 a2 a3 fc c0 c1 port : Byte) (fopts frm tag : Bytes),
      s.HasInput ((ft ++ rfu ++ major) :: dataBody a0 a1 a2 a3 fc c0 c1 fopts (port :: frm) ++ tag) →
      tag.length = 4 → (fc.extractLsb' 0 4).toNat = fopts.length →
      (tailClass fopts (port :: frm) = .commands ∧ s.keyNwkV = 1 ∧ (s.keyNwk = none ∨ s.be = none)) ∨
        (tailClass fopts (port :: frm) = .appData ∧ s.keyAppV = 1 ∧ (s.keyApp = none ∨ s.be = none)) →
      (∃ q, exec (mk rfu major) s = .refused q) ∧ (∃ q, exec .decode s = .refused q)

/-- `ORCH_ORDER` host with `BE` = 1 and wire with `BE` = 0 give one plaintext, and so do the two other pairs (R16,
R236), in every configuration. -/
def Obligations.OrchOrderAndBePairUp : Prop :=
  ∀ (cfg : Config) (s : State) (be : Bit) (r : Reg) (K : Option Block) (dir : Direction) (d : DataReport),
    frmPlainOf { cfg with orchOrder := .host } { s with be := some be } r K dir d =
      frmPlainOf { cfg with orchOrder := .wire } { s with be := some (1 - be) } r K dir d

/-! ### Whole-machine rules of the frame decoder -/

/-- `rfu` and `major` do not steer anything (R142, R83): they change the reported header fields and nothing else.
Frame types as instructions are the model's choice: log 12. -/
def Obligations.ReservedHeaderFieldsDoNotSteer : Prop :=
  ∀ (s : State) (rfu rfu' : BitVec 3) (major major' : BitVec 2),
    ∀ c ∈ [(FrameType.joinRequest, Instr.ftJoinrequest), (.joinAccept, .ftJoinaccept),
        (.unconfirmedUp, .ftUnconfirmedup), (.unconfirmedDown, .ftUnconfirmeddown), (.confirmedUp, .ftConfirmedup),
        (.confirmedDown, .ftConfirmeddown), (.reserved, .ftReserved), (.proprietary, .ftProprietary)],
      exec (c.2 rfu' major') s =
        mapCompleted (State.mapReport fun r => { r with mhdr := r.mhdr.map fun _ => ⟨c.1, rfu', major'⟩ })
          (exec (c.2 rfu major) s)

/-- Confirmed frames decode as unconfirmed ones (R241, R232, R233): only the reported `ftype` differs. Frame types as
instructions are the model's choice: log 12. -/
def Obligations.ConfirmedLikeUnconfirmed : Prop :=
  ∀ (s : State) (rfu : BitVec 3) (major : BitVec 2),
    exec (.ftConfirmedup rfu major) s =
      mapCompleted (State.mapReport fun r => { r with mhdr := r.mhdr.map fun h => { h with ftype := .confirmedUp } })
        (exec (.ftUnconfirmedup rfu major) s) ∧
    exec (.ftConfirmeddown rfu major) s =
      mapCompleted (State.mapReport fun r => { r with mhdr := r.mhdr.map fun h => { h with ftype := .confirmedDown } })
        (exec (.ftUnconfirmeddown rfu major) s)

/-- The tag is reported and never checked (R240): another tag changes the reported tag and nothing else. -/
def Obligations.TagNeverChecked : Prop :=
  ∀ (s : State) (m : Memory) (F tag tag' : Bytes), tag.length = 4 → tag'.length = 4 → s.HasInput (F ++ tag) →
    ({ s with inBuf := some m } : State).HasInput (F ++ tag') →
    exec .decode { s with inBuf := some m } =
      mapCompleted (fun t => { t.mapReport (fun r => { r with tag := r.tag.map fun _ => tag' }) with inBuf := some m })
        (exec .decode s)

/-- `BE` changes no decoded field (R54): two DECODEs that differ in `BE` complete with reports that differ at most in
`frm_plain` and `frm_cmds`. -/
def Obligations.BeChangesOnlyPlaintext : Prop :=
  ∀ (s t : State) (be be' : Bit), s.be = some be → completedIn (exec .decode s) t →
    ∃ t', completedIn (exec .decode { s with be := some be' }) t' ∧
      t'.report.map Report.withoutPlain = t.report.map Report.withoutPlain

/-- A diagnostic body is never decrypted or walked, whatever keys are present (R239, R157), and no operation reports a
plaintext without a port. `DIAG_PORT` is 224: log 4. -/
def Obligations.DiagnosticNeverDecrypted : Prop :=
  ∀ (i : Instr) (s t : State) (r : Report) (d : DataReport), completedIn (exec i s) t → t.report = some r →
    r.data = some d →
    (d.port = some 224 → d.frmClass = some .diagnostic ∧ d.frmPlain = none ∧ d.frmCmds = none) ∧
    (d.port = none → d.frm = none ∧ d.frmPlain = none ∧ d.frmCmds = none)

/-! ### The host -/

/-- Reading a result register while `STATUS` = IDLE is refused (R45). -/
def Obligations.ResultReadsRefusedWhileIdle : Prop :=
  ∀ (s : State) (i : Nat), s.status = .idle →
    hostReadErr s = .error .resultsWhileIdle ∧ hostReadOutLen s = .error .resultsWhileIdle ∧
    hostReadReport s = .error .resultsWhileIdle ∧ hostReadOut s i = .error .resultsWhileIdle

/-- A host write takes effect, its register holds exactly what was written, no other register changes (R38), and no
result register in particular. Only a length above `BUF_MAX` cannot be written (R15). A write of `IN` changes the bytes
it covers and no other index; that a part of `IN` can be written is the model's form: log 17. -/
def Obligations.HostWritesHoldAndFrame : Prop :=
  (∀ (cfg : Config) (w : HostWrite) (s t : State), hostWrite cfg w s = .next t →
    t.status = s.status ∧ t.err = s.err ∧ t.out = s.out ∧ t.outLen = s.outLen ∧ t.report = s.report) ∧
  (∀ (cfg : Config) (s : State) (off : Nat) (bs : Bytes), s.Inv → aboveMax cfg (off + bs.length) = false →
    ∃ t, hostWrite cfg (.inBytes off bs) s = .next t ∧
      (∀ j, off ≤ j → j < off + bs.length → hostReadIn t j = some (byteAt bs (j - off))) ∧
      (∀ j, j < off ∨ off + bs.length ≤ j → hostReadIn t j = hostReadIn s j) ∧
      { t with inBuf := s.inBuf } = s) ∧
  (∀ (cfg : Config) (s : State) (n : Nat), aboveMax cfg n = false →
    ∃ t, hostWrite cfg (.inLen n) s = .next t ∧ hostReadInLen t = some n ∧ { t with inLen := s.inLen } = s) ∧
  (∀ (cfg : Config) (s : State) (v : BitVec 4),
    ∃ t, hostWrite cfg (.op v) s = .next t ∧ hostReadOp t = some v ∧ { t with op := s.op } = s) ∧
  (∀ (cfg : Config) (s : State) (K : Block),
    ∃ t, hostWrite cfg (.keyNwk K) s = .next t ∧ hostReadKeyNwk t = some K ∧ { t with keyNwk := s.keyNwk } = s) ∧
  (∀ (cfg : Config) (s : State) (v : Bit),
    ∃ t, hostWrite cfg (.keyNwkV v) s = .next t ∧ hostReadKeyNwkV t = v ∧ { t with keyNwkV := s.keyNwkV } = s) ∧
  (∀ (cfg : Config) (s : State) (K : Block),
    ∃ t, hostWrite cfg (.keyApp K) s = .next t ∧ hostReadKeyApp t = some K ∧ { t with keyApp := s.keyApp } = s) ∧
  (∀ (cfg : Config) (s : State) (v : Bit),
    ∃ t, hostWrite cfg (.keyAppV v) s = .next t ∧ hostReadKeyAppV t = v ∧ { t with keyAppV := s.keyAppV } = s) ∧
  (∀ (cfg : Config) (s : State) (v : BitVec 16),
    ∃ t, hostWrite cfg (.fcntHi v) s = .next t ∧ hostReadFcntHi t = v ∧ { t with fcntHi := s.fcntHi } = s) ∧
  (∀ (cfg : Config) (s : State) (v : Bit),
    ∃ t, hostWrite cfg (.be v) s = .next t ∧ hostReadBe t = some v ∧ { t with be := s.be } = s) ∧
  (∀ (cfg : Config) (s : State) (v : Bit),
    ∃ t, hostWrite cfg (.dir v) s = .next t ∧ hostReadDir t = some v ∧ { t with dir := s.dir } = s) ∧
  (∀ (cfg : Config) (s : State) (v : Bit),
    ∃ t, hostWrite cfg (.ksel v) s = .next t ∧ hostReadKsel t = some v ∧ { t with ksel := s.ksel } = s) ∧
  (∀ (cfg : Config) (s : State) (q : Quad),
    ∃ t, hostWrite cfg (.addr q) s = .next t ∧ hostReadAddr t = some q ∧ { t with addr := s.addr } = s) ∧
  (∀ (cfg : Config) (s : State) (q : Quad),
    ∃ t, hostWrite cfg (.cnt q) s = .next t ∧ hostReadCnt t = some q ∧ { t with cnt := s.cnt } = s)

/-- The two digits of a byte, in lower case. -/
def hexPair (b : Byte) : List Char := [Nat.digitChar (b.toNat / 16), Nat.digitChar (b.toNat % 16)]

/-- HexIngest (R250, R252): a byte sequence typed as one digit string, as groups with spaces and `0x` tokens, or as
dot groups gives that byte sequence. What a whitespace character is: log 16. -/
def Obligations.IngestFormsAgree : Prop :=
  ∀ bs : Bytes,
    hexIngest (bs.flatMap hexPair) = .bytes bs ∧
    hexIngest (bs.flatMap fun b => '0' :: 'x' :: hexPair b ++ [' ']) = .bytes bs ∧
    hexIngest ((bs.map hexPair).intersperse ['.']).flatten = .bytes bs
end

