-- ==== Sys2Proof/Laws/Bits.lean ====
section
/-! SUPPORT. The bit ranges, little-endian numbers and two's-complement readings of Bits.lean as bit-vector terms. -/

namespace Sys2Proof.Machine

/-- A bit range is the bit-vector extract (R140). -/
theorem bits_eq_extract (b : Byte) {hi lo : Nat} : bits b hi lo = (b.extractLsb' lo (hi - lo + 1)).toNat := by
  simp [bits, BitVec.extractLsb'_toNat, Nat.shiftRight_eq_div_pow]

theorem bit_eq_extract (b : Byte) (k : Nat) : bit b k = b.extractLsb' k 1 := by
  apply BitVec.eq_of_toNat_eq
  simp [bit, bits, BitVec.extractLsb'_toNat, Nat.shiftRight_eq_div_pow]

/-- A field of w bits is the extract of its range. -/
theorem ofNat_bits (b : Byte) (hi lo w : Nat) (h : w = hi - lo + 1) :
    BitVec.ofNat w (bits b hi lo) = b.extractLsb' lo w := by
  subst h
  apply BitVec.eq_of_toNat_eq
  simp [bits_eq_extract]

@[simp] theorem le_nil : le [] = 0 := rfl
@[simp] theorem le_cons (b : Byte) (bs : Bytes) : le (b :: bs) = b.toNat + 256 * le bs := rfl

/-- A little-endian number of n bytes is below 256^n (R53). -/
theorem le_lt (bs : Bytes) : le bs < 256 ^ bs.length := by
  induction bs with
  | nil => simp
  | cons b bs ih =>
    have := b.isLt
    simp only [le_cons, List.length_cons, Nat.pow_succ]
    omega

/-- Two's complement is the signed reading of the bit vector (R176). -/
theorem sext_toNat {n : Nat} (hn : 0 < n) (v : BitVec n) : sext n v.toNat = v.toInt := by
  obtain ⟨m, rfl⟩ : ∃ m, n = m + 1 := ⟨n - 1, by omega⟩
  rw [sext, BitVec.toInt_eq_toNat_cond, Nat.pow_succ]
  simp only [Nat.add_sub_cancel]
  split <;> split
  · rfl
  · omega
  · omega
  · push_cast
    ring

end Sys2Proof.Machine
end

