-- ==== Sys2Proof/Laws/Memory.lean ====
section
/-! SUPPORT. Laws of the byte buffers: every write keeps the canonical form, a read after a write, and what a buffer
made of bytes reads as. -/

namespace Sys2Proof.Machine

/-- A form that starts higher is one that starts lower. -/
theorem Memory.wfFrom_mono {m : Memory} {lo lo' : Nat} (h : Memory.wfFrom lo m = true) (hl : lo' ≤ lo) :
    Memory.wfFrom lo' m = true := by
  cases m with
  | nil => rfl
  | cons c m =>
    simp only [Memory.wfFrom, Bool.and_eq_true, decide_eq_true_eq] at h ⊢
    exact ⟨by omega, h.2⟩

theorem Memory.wfFrom_write {m : Memory} {lo i : Nat} (v : Byte) (h : Memory.wfFrom lo m = true) (hi : lo ≤ i) :
    Memory.wfFrom lo (m.write i v) = true := by
  induction m generalizing lo with
  | nil => simp [Memory.write, Memory.wfFrom, hi]
  | cons c m ih =>
    obtain ⟨a, b⟩ := c
    simp only [Memory.wfFrom, Bool.and_eq_true, decide_eq_true_eq] at h
    unfold Memory.write
    split
    · simp only [Memory.wfFrom, Bool.and_eq_true, decide_eq_true_eq]
      exact ⟨hi, by omega, h.2⟩
    · split
      · subst_vars
        simp only [Memory.wfFrom, Bool.and_eq_true, decide_eq_true_eq]
        exact ⟨hi, h.2⟩
      · simp only [Memory.wfFrom, Bool.and_eq_true, decide_eq_true_eq]
        exact ⟨h.1, ih h.2 (by omega)⟩

/-- A write keeps the canonical form. -/
theorem Memory.wf_write {m : Memory} (h : m.wf = true) (i : Nat) (v : Byte) : (m.write i v).wf = true :=
  Memory.wfFrom_write v h (Nat.zero_le i)

/-- A write of several bytes keeps the canonical form. -/
theorem Memory.wf_writeBytes {m : Memory} (h : m.wf = true) (off : Nat) (bs : Bytes) :
    (m.writeBytes off bs).wf = true := by
  induction bs generalizing m off with
  | nil => exact h
  | cons b bs ih => exact ih (Memory.wf_write h off b) (off + 1)

theorem Memory.wfFrom_ofBytesFrom (bs : Bytes) (i : Nat) : Memory.wfFrom i (Memory.ofBytesFrom i bs) = true := by
  induction bs generalizing i with
  | nil => rfl
  | cons b bs ih => simp [Memory.ofBytesFrom, Memory.wfFrom, ih]

/-- A buffer made of bytes is in canonical form. -/
@[simp] theorem Memory.wf_ofBytes (bs : Bytes) : (Memory.ofBytes bs).wf = true := Memory.wfFrom_ofBytesFrom bs 0

/-- The host's write of `IN` keeps the canonical form. -/
theorem hostWrite_inBuf_wf {cfg : Config} {w : HostWrite} {s t : State} (h : hostWrite cfg w s = .next t)
    (hs : ∀ m, s.inBuf = some m → m.wf = true) : ∀ m, t.inBuf = some m → m.wf = true := by
  cases w with
  | inBytes off bs =>
    simp only [hostWrite] at h
    split at h
    · cases h
    · cases h
      intro m hm
      cases hm
      apply Memory.wf_writeBytes
      cases hb : s.inBuf with
      | none => rfl
      | some m => exact hs m hb
  | inLen n =>
    simp only [hostWrite] at h
    split at h
    · cases h
    · cases h; exact hs
  | _ => simp only [hostWrite] at h; cases h; exact hs

/-- Reset lists nothing. -/
theorem reset_inBuf_wf : ∀ m, State.reset.inBuf = some m → m.wf = true := by
  intro m h; cases h

/-- The byte written is the byte read. -/
@[simp] theorem Memory.read_write_same (m : Memory) (i : Nat) (v : Byte) : (m.write i v).read i = some v := by
  induction m with
  | nil => simp [Memory.write, Memory.read]
  | cons c m ih =>
    obtain ⟨a, b⟩ := c
    unfold Memory.write
    split
    · simp [Memory.read]
    · split
      · simp [Memory.read]
      · simp only [Memory.read]
        rw [if_neg ‹_›, ih]

/-- A write leaves every other index as it was. -/
theorem Memory.read_write_other {m : Memory} (hm : m.wf = true) {i j : Nat} (v : Byte) (h : j ≠ i) :
    (m.write i v).read j = m.read j := by
  induction m with
  | nil => simp [Memory.write, Memory.read, h]
  | cons c m ih =>
    obtain ⟨a, b⟩ := c
    have hm' : Memory.wf m = true := by
      simp only [Memory.wf, Memory.wfFrom, Bool.and_eq_true] at hm
      exact Memory.wfFrom_mono hm.2 (Nat.zero_le _)
    unfold Memory.write
    split
    · simp [Memory.read, h]
    · split
      · subst_vars
        simp [Memory.read, h]
      · simp only [Memory.read, ih hm']

theorem Memory.read_ofBytesFrom (bs : Bytes) (i j : Nat) :
    (Memory.ofBytesFrom i bs).read (i + j) = bs[j]? := by
  induction bs generalizing i j with
  | nil => simp [Memory.ofBytesFrom, Memory.read]
  | cons b bs ih =>
    simp only [Memory.ofBytesFrom, Memory.read]
    cases j with
    | zero => simp
    | succ j =>
      rw [if_neg (by omega), show i + (j + 1) = i + 1 + j by omega, ih]
      simp

/-- A buffer made of bytes reads as those bytes, and past them holds no value. -/
@[simp] theorem Memory.read_ofBytes (bs : Bytes) (j : Nat) : (Memory.ofBytes bs).read j = bs[j]? := by
  simpa [Memory.ofBytes] using Memory.read_ofBytesFrom bs 0 j

theorem Memory.readBytes_eq_some {m : Memory} {off n : Nat} {bs : Bytes} :
    m.readBytes off n = some bs ↔ bs.length = n ∧ ∀ j < n, m.read (off + j) = bs[j]? := by
  induction n generalizing off bs with
  | zero =>
    simp only [Memory.readBytes, Option.some.injEq]
    constructor
    · rintro rfl; simp
    · intro h; exact (List.length_eq_zero_iff.mp h.1).symm
  | succ n ih =>
    simp only [Memory.readBytes]
    cases bs with
    | nil =>
      constructor
      · intro h; split at h <;> simp at h
      · intro h; simp at h
    | cons b bs =>
      constructor
      · intro h
        split at h
        · rename_i b' bs' hb hbs
          simp only [Option.some.injEq, List.cons.injEq] at h
          obtain ⟨rfl, rfl⟩ := h
          obtain ⟨hl, hr⟩ := ih.mp hbs
          refine ⟨by simp [hl], fun j hj => ?_⟩
          cases j with
          | zero => simpa using hb
          | succ j =>
            rw [show off + (j + 1) = off + 1 + j by omega, hr j (by omega)]
            simp
        · cases h
      · rintro ⟨hl, hr⟩
        have h0 : m.read off = some b := by simpa using hr 0 (by omega)
        have h1 : m.readBytes (off + 1) n = some bs := by
          refine ih.mpr ⟨by simpa using hl, fun j hj => ?_⟩
          have := hr (j + 1) (by omega)
          rw [show off + (j + 1) = off + 1 + j by omega] at this
          simpa using this
        rw [h0, h1]

/-- What was read whole has the length asked for. -/
theorem Memory.readBytes_length {m : Memory} {off n : Nat} {bs : Bytes} (h : m.readBytes off n = some bs) :
    bs.length = n := (Memory.readBytes_eq_some.mp h).1

/-- Reading a buffer made of bytes gives them back. -/
@[simp] theorem Memory.readBytes_ofBytes (bs : Bytes) : (Memory.ofBytes bs).readBytes 0 bs.length = some bs := by
  rw [Memory.readBytes_eq_some]
  simp

/-- A buffer made of bytes determines them. -/
theorem Memory.ofBytes_injective {p q : Bytes} (h : Memory.ofBytes p = Memory.ofBytes q) : p = q := by
  apply List.ext_getElem?
  intro i
  rw [← Memory.read_ofBytes, ← Memory.read_ofBytes, h]

/-- The input a host has just written whole. -/
theorem setInput_hasInput (bs : Bytes) (s : State) : (setInput bs s).HasInput bs := by
  simp [State.HasInput, setInput]

end Sys2Proof.Machine
end

