-- ==== Sys2Proof/Laws/State.lean ====
section
/-! SUPPORT. One lemma per field of State for each update of the model: `complete` (the result group), the host's writes
of `IN` and `IN_LEN`, and the report writes inside an operation. -/

namespace Sys2Proof.Machine

variable (s : State) (w : Work) (out : Bytes)

@[simp] theorem complete_op : (complete s w out).op = s.op := rfl
@[simp] theorem complete_inBuf : (complete s w out).inBuf = s.inBuf := rfl
@[simp] theorem complete_inLen : (complete s w out).inLen = s.inLen := rfl
@[simp] theorem complete_keyNwk : (complete s w out).keyNwk = s.keyNwk := rfl
@[simp] theorem complete_keyNwkV : (complete s w out).keyNwkV = s.keyNwkV := rfl
@[simp] theorem complete_keyApp : (complete s w out).keyApp = s.keyApp := rfl
@[simp] theorem complete_keyAppV : (complete s w out).keyAppV = s.keyAppV := rfl
@[simp] theorem complete_fcntHi : (complete s w out).fcntHi = s.fcntHi := rfl
@[simp] theorem complete_be : (complete s w out).be = s.be := rfl
@[simp] theorem complete_dir : (complete s w out).dir = s.dir := rfl
@[simp] theorem complete_ksel : (complete s w out).ksel = s.ksel := rfl
@[simp] theorem complete_addr : (complete s w out).addr = s.addr := rfl
@[simp] theorem complete_cnt : (complete s w out).cnt = s.cnt := rfl
@[simp] theorem complete_status : (complete s w out).status = .done := rfl
@[simp] theorem complete_err : (complete s w out).err = some w.err := rfl
@[simp] theorem complete_out : (complete s w out).out = some (Memory.ofBytes out) := rfl
@[simp] theorem complete_outLen : (complete s w out).outLen = some out.length := rfl
@[simp] theorem complete_report : (complete s w out).report = some w.report := rfl
@[simp] theorem complete_request : (complete s w out).request = s.request := rfl

@[simp] theorem setInput_op : (setInput out s).op = s.op := rfl
@[simp] theorem setInput_inBuf : (setInput out s).inBuf = some (Memory.ofBytes out) := rfl
@[simp] theorem setInput_inLen : (setInput out s).inLen = some out.length := rfl
@[simp] theorem setInput_keyNwk : (setInput out s).keyNwk = s.keyNwk := rfl
@[simp] theorem setInput_keyNwkV : (setInput out s).keyNwkV = s.keyNwkV := rfl
@[simp] theorem setInput_keyApp : (setInput out s).keyApp = s.keyApp := rfl
@[simp] theorem setInput_keyAppV : (setInput out s).keyAppV = s.keyAppV := rfl
@[simp] theorem setInput_fcntHi : (setInput out s).fcntHi = s.fcntHi := rfl
@[simp] theorem setInput_be : (setInput out s).be = s.be := rfl
@[simp] theorem setInput_dir : (setInput out s).dir = s.dir := rfl
@[simp] theorem setInput_ksel : (setInput out s).ksel = s.ksel := rfl
@[simp] theorem setInput_addr : (setInput out s).addr = s.addr := rfl
@[simp] theorem setInput_cnt : (setInput out s).cnt = s.cnt := rfl
@[simp] theorem setInput_status : (setInput out s).status = s.status := rfl
@[simp] theorem setInput_err : (setInput out s).err = s.err := rfl
@[simp] theorem setInput_out : (setInput out s).out = s.out := rfl
@[simp] theorem setInput_outLen : (setInput out s).outLen = s.outLen := rfl
@[simp] theorem setInput_report : (setInput out s).report = s.report := rfl

/-- The result group is rewritten whole (R47): completing twice is completing once. -/
@[simp] theorem complete_complete (w' : Work) (out' : Bytes) :
    complete (complete s w out) w' out' = complete s w' out' := rfl

/-- Two states with the same request registers complete in the same state (R47). -/
theorem complete_congr {s s' : State} (h : s.request = s'.request) (w : Work) (out : Bytes) :
    complete s w out = complete s' w out := by
  simp only [State.request, Request.mk.injEq] at h
  obtain ⟨h1, h2, h3, h4, h5, h6, h7, h8, h9, h10, h11, h12, h13⟩ := h
  simp only [complete, h1, h2, h3, h4, h5, h6, h7, h8, h9, h10, h11, h12, h13]

@[simp] theorem setData_err (d : DataReport) : (w.setData d).err = w.err := rfl
@[simp] theorem setData_data (d : DataReport) : (w.setData d).report.data = some d := rfl
@[simp] theorem setData_direction (d : DataReport) : (w.setData d).report.direction = w.report.direction := rfl
@[simp] theorem setData_mhdr (d : DataReport) : (w.setData d).report.mhdr = w.report.mhdr := rfl
@[simp] theorem setData_setData (d d' : DataReport) : (w.setData d).setData d' = w.setData d' := rfl
@[simp] theorem setDirection_err (d : Option Direction) : (w.setDirection d).err = w.err := rfl
@[simp] theorem setDirection_direction (d : Option Direction) : (w.setDirection d).report.direction = d := rfl
@[simp] theorem setDirection_data (d : Option Direction) : (w.setDirection d).report.data = w.report.data := rfl
@[simp] theorem setDirection_mhdr (d : Option Direction) : (w.setDirection d).report.mhdr = w.report.mhdr := rfl

end Sys2Proof.Machine
end

