-- ==== Sys2Proof/Laws/Operands.lean ====
section
/-! SUPPORT. What the shared operations of Ops.lean and Operands.lean can do, said once: the provers cite these and do
not unfold them. -/

namespace Sys2Proof.Machine

/-! ### Recording an error -/

/-- The first recorded error stays (R270). -/
theorem note_of_recorded {w : Work} (h : w.err ≠ .ok) (e : Err) : w.note e = w := by simp [Work.note, h]

/-- An error is recorded when none is yet (R267). -/
theorem note_of_ok {w : Work} (h : w.err = .ok) (e : Err) : w.note e = { w with err := e } := by
  simp [Work.note, h]

/-- Recording an error writes no report field. -/
@[simp] theorem note_report (w : Work) (e : Err) : (w.note e).report = w.report := by
  unfold Work.note; split <;> rfl

theorem note_err (w : Work) (e : Err) : (w.note e).err = if w.err = .ok then e else w.err := by
  unfold Work.note; split <;> rfl

@[simp] theorem noteStop_report (w : Work) (stop : StreamStop) : (w.noteStop stop).report = w.report := by
  cases stop <;> simp [Work.noteStop]

@[simp] theorem noteStop_complete (w : Work) : w.noteStop .complete = w := rfl

/-- What a stop records when nothing is recorded yet (R172). -/
theorem noteStop_of_ok {w : Work} (h : w.err = .ok) (stop : StreamStop) :
    w.noteStop stop = { w with err := stopErr stop } := by
  cases stop with
  | complete => cases w; simp_all [Work.noteStop, stopErr]
  | unrecognized id pos => simp [Work.noteStop, stopErr, note_of_ok h]
  | shortBody id pos => simp [Work.noteStop, stopErr, note_of_ok h]

@[simp] theorem raise_work (e : Err) (w : Work) : (raise e w).work = w.note e := rfl

/-! ### Delivering -/

/-- A result that carries no MalformedLength is a next state (R273). -/
theorem deliver_next {w : Work} (h : ∀ p, w.err ≠ .malformedLength p) (s : State) (out : Bytes) :
    deliver s w out = .next (complete s w out) := by
  unfold deliver
  cases he : w.err <;> simp_all

/-- A result that carries MalformedLength is the fault with the completed state (R266). -/
theorem deliver_fault {w : Work} {p : Place} (h : w.err = .malformedLength p) (s : State) (out : Bytes) :
    deliver s w out = .fault (.malformedLength p (complete s w out)) := by
  simp [deliver, h]

/-- Delivering never refuses. -/
theorem deliver_ne_refused (s : State) (w : Work) (out : Bytes) (r : Refusal) : deliver s w out ≠ .refused r := by
  unfold deliver; split <;> simp

/-- The inversion of `deliver`: a next state is the completed one, and carries no MalformedLength. -/
theorem deliver_eq_next {s t : State} {w : Work} {out : Bytes} (h : deliver s w out = .next t) :
    t = complete s w out ∧ ∀ p, w.err ≠ .malformedLength p := by
  unfold deliver at h
  split at h
  · cases h
  all_goals
    cases h
    rename_i he
    exact ⟨rfl, by simp [he]⟩

/-- The inversion of `deliver`: a fault is MalformedLength with the completed state. -/
theorem deliver_eq_fault {s : State} {w : Work} {out : Bytes} {f : Fault} (h : deliver s w out = .fault f) :
    ∃ p, w.err = .malformedLength p ∧ f = .malformedLength p (complete s w out) := by
  unfold deliver at h
  split at h
  · rename_i p he
    cases h
    exact ⟨p, he, rfl⟩
  all_goals cases h

/-- What an operation delivers depends on the request registers alone. -/
theorem deliver_congr {s s' : State} (h : s.request = s'.request) (w : Work) (out : Bytes) :
    deliver s w out = deliver s' w out := by
  simp only [deliver, complete_congr h]

/-! ### Operands -/

@[simp] theorem need_some {α : Type} (r : Reg) (a : α) (k : α → Host.Outcome State Fault Refusal) :
    need r (some a) k = k a := rfl

@[simp] theorem need_none {α : Type} (r : Reg) (k : α → Host.Outcome State Fault Refusal) :
    need r none k = .refused (.noValue r) := rfl

/-- The inversion of `need` at an answer that is no refusal. -/
theorem need_cases {α : Type} {r : Reg} {v : Option α} {k : α → Host.Outcome State Fault Refusal}
    {o : Host.Outcome State Fault Refusal} (h : need r v k = o) :
    (v = none ∧ o = .refused (.noValue r)) ∨ ∃ a, v = some a ∧ k a = o := by
  cases v with
  | none => exact .inl ⟨rfl, h.symm⟩
  | some a => exact .inr ⟨a, rfl, h⟩

@[simp] theorem aboveMax_hw (n : Nat) : aboveMax Config.hw n = false := rfl

/-- An operation whose input holds these bytes, no more of them than `BUF_MAX`, reads them. -/
theorem withInput_of_hasInput {cfg : Config} {s : State} {bs : Bytes} (h : s.HasInput bs)
    (hm : aboveMax cfg bs.length = false) (k : Bytes → Host.Outcome State Fault Refusal) :
    withInput cfg s k = k bs := by
  obtain ⟨hl, hb⟩ := h
  cases hi : s.inBuf with
  | none => simp [hi] at hb
  | some m =>
    simp only [hi, Option.bind_some] at hb
    simp [withInput, hl, hm, hi, hb]

/-- The block of this model has no `BUF_MAX`, so it reads any input. -/
theorem withInput_hw {s : State} {bs : Bytes} (h : s.HasInput bs) (k : Bytes → Host.Outcome State Fault Refusal) :
    withInput Config.hw s k = k bs := withInput_of_hasInput h rfl k

/-- The inversion of `withInput`: a refusal, or the input it read. -/
theorem withInput_cases {cfg : Config} {s : State} {k : Bytes → Host.Outcome State Fault Refusal}
    {o : Host.Outcome State Fault Refusal} (h : withInput cfg s k = o) :
    (∃ r, o = .refused r) ∨ ∃ bs, s.HasInput bs ∧ k bs = o := by
  unfold withInput at h
  rcases need_cases h with ⟨-, ho⟩ | ⟨n, hn, h⟩
  · exact .inl ⟨_, ho⟩
  · split at h
    · exact .inl ⟨_, h.symm⟩
    · rcases need_cases h with ⟨-, ho⟩ | ⟨m, hm, h⟩
      · exact .inl ⟨_, ho⟩
      · rcases need_cases h with ⟨-, ho⟩ | ⟨bs, hbs, h⟩
        · exact .inl ⟨_, ho⟩
        · refine .inr ⟨bs, ⟨?_, ?_⟩, h⟩
          · rw [hn, Memory.readBytes_length hbs]
          · rw [hm, Option.bind_some, Memory.readBytes_length hbs, hbs]

/-- A valid selected key that holds a value is read. -/
theorem withKey_valid {s : State} {ksel : Bit} {K : Block} (hv : (selectKey s ksel).valid = 1)
    (hk : (selectKey s ksel).key = some K) (k : Block → Host.Outcome State Fault Refusal) :
    withKey s ksel k = k K := by
  simp [withKey, hv, hk]

/-- An absent selected key ends the operation with MissingKey (R271). -/
theorem withKey_absent {s : State} {ksel : Bit} (hv : (selectKey s ksel).valid = 0)
    (k : Block → Host.Outcome State Fault Refusal) :
    withKey s ksel k = .next (complete s { err := .missingKey (selectKey s ksel).kind } []) := by
  simp [withKey, hv, Work.note, deliver]

/-- The inversion of `withKey`: MissingKey, a refusal, or the key it read. -/
theorem withKey_cases {s : State} {ksel : Bit} {k : Block → Host.Outcome State Fault Refusal}
    {o : Host.Outcome State Fault Refusal} (h : withKey s ksel k = o) :
    ((selectKey s ksel).valid = 0 ∧ o = .next (complete s { err := .missingKey (selectKey s ksel).kind } [])) ∨
      (∃ r, o = .refused r) ∨ ∃ K, (selectKey s ksel).key = some K ∧ k K = o := by
  by_cases hv : (selectKey s ksel).valid = 0
  · exact .inl ⟨hv, by rw [← h, withKey_absent hv]⟩
  · simp only [withKey, if_neg hv] at h
    rcases need_cases h with ⟨-, ho⟩ | hk
    · exact .inr (.inl ⟨_, ho⟩)
    · exact .inr (.inr hk)

@[simp] theorem withDir_some {s : State} {d : Bit} (h : s.dir = some d)
    (k : Direction → Host.Outcome State Fault Refusal) : withDir s k = k (Direction.ofBit d) := by
  simp [withDir, h]

/-- The inversion of `withDir`. -/
theorem withDir_cases {s : State} {k : Direction → Host.Outcome State Fault Refusal}
    {o : Host.Outcome State Fault Refusal} (h : withDir s k = o) :
    (∃ r, o = .refused r) ∨ ∃ d, s.dir = some d ∧ k (Direction.ofBit d) = o := by
  rcases need_cases h with ⟨-, ho⟩ | hd
  · exact .inl ⟨_, ho⟩
  · exact .inr hd

@[simp] theorem ofBit_bit (d : Direction) : Direction.ofBit d.bit = d := by cases d <;> rfl

end Sys2Proof.Machine
end

