-- ==== Sys2Proof/Laws/PerInstr.lean ====
section
/-! SUPPORT. Families of statements over the instructions, one lemma per constructor. -/

/-- The encoding of a well-formed instruction is one byte and its body (R91, R100, R81): its length is known from the
row alone (R103). -/
def Sys2Proof.Laws.EncodeLength.Statement (i : Sys2Proof.Instr) : Prop :=
  i.wellFormed = true → (Sys2Proof.encode i).length = 1 + (i.bodyAndLength.map Prod.snd).getD 0

namespace Sys2Proof.Laws.EncodeLength

open Sys2Proof

/-- The case of a command: its body has its row's length. -/
theorem of_body {i : Instr} {id : Byte} {body : Bytes} {n : Nat} (hb : i.bodyAndLength = some (body, n))
    (he : encode i = id :: body) : Statement i := by
  intro h
  simp only [Instr.wellFormed, hb, beq_iff_eq] at h
  simp [he, hb, h]
  omega

theorem decode : Statement .decode := fun _ => rfl
theorem cipher : Statement .cipher := fun _ => rfl
theorem macparse : Statement .macparse := fun _ => rfl
theorem fhdr : Statement .fhdr := fun _ => rfl
theorem mhdr : Statement .mhdr := fun _ => rfl
theorem fctrl : Statement .fctrl := fun _ => rfl
theorem joinreq : Statement .joinreq := fun _ => rfl
theorem joinacc : Statement .joinacc := fun _ => rfl
theorem aesblk : Statement .aesblk := fun _ => rfl
theorem ftJoinrequest (rfu : BitVec 3) (major : BitVec 2) : Statement (.ftJoinrequest rfu major) := fun _ => rfl
theorem ftJoinaccept (rfu : BitVec 3) (major : BitVec 2) : Statement (.ftJoinaccept rfu major) := fun _ => rfl
theorem ftUnconfirmedup (rfu : BitVec 3) (major : BitVec 2) : Statement (.ftUnconfirmedup rfu major) := fun _ => rfl
theorem ftUnconfirmeddown (rfu : BitVec 3) (major : BitVec 2) : Statement (.ftUnconfirmeddown rfu major) := fun _ => rfl
theorem ftConfirmedup (rfu : BitVec 3) (major : BitVec 2) : Statement (.ftConfirmedup rfu major) := fun _ => rfl
theorem ftConfirmeddown (rfu : BitVec 3) (major : BitVec 2) : Statement (.ftConfirmeddown rfu major) := fun _ => rfl
theorem ftReserved (rfu : BitVec 3) (major : BitVec 2) : Statement (.ftReserved rfu major) := fun _ => rfl
theorem ftProprietary (rfu : BitVec 3) (major : BitVec 2) : Statement (.ftProprietary rfu major) := fun _ => rfl
theorem linkCheckReq (body : Bytes) : Statement (.linkCheckReq body) := of_body rfl rfl
theorem linkADRAns (body : Bytes) : Statement (.linkADRAns body) := of_body rfl rfl
theorem dutyCycleAns (body : Bytes) : Statement (.dutyCycleAns body) := of_body rfl rfl
theorem rxParamSetupAns (body : Bytes) : Statement (.rxParamSetupAns body) := of_body rfl rfl
theorem devStatusAns (body : Bytes) : Statement (.devStatusAns body) := of_body rfl rfl
theorem newChannelAns (body : Bytes) : Statement (.newChannelAns body) := of_body rfl rfl
theorem rxTimingSetupAns (body : Bytes) : Statement (.rxTimingSetupAns body) := of_body rfl rfl
theorem txParamSetupAns (body : Bytes) : Statement (.txParamSetupAns body) := of_body rfl rfl
theorem dlChannelAns (body : Bytes) : Statement (.dlChannelAns body) := of_body rfl rfl
theorem linkCheckAns (body : Bytes) : Statement (.linkCheckAns body) := of_body rfl rfl
theorem linkADRReq (body : Bytes) : Statement (.linkADRReq body) := of_body rfl rfl
theorem dutyCycleReq (body : Bytes) : Statement (.dutyCycleReq body) := of_body rfl rfl
theorem rxParamSetupReq (body : Bytes) : Statement (.rxParamSetupReq body) := of_body rfl rfl
theorem devStatusReq (body : Bytes) : Statement (.devStatusReq body) := of_body rfl rfl
theorem newChannelReq (body : Bytes) : Statement (.newChannelReq body) := of_body rfl rfl
theorem rxTimingSetupReq (body : Bytes) : Statement (.rxTimingSetupReq body) := of_body rfl rfl
theorem txParamSetupReq (body : Bytes) : Statement (.txParamSetupReq body) := of_body rfl rfl
theorem dlChannelReq (body : Bytes) : Statement (.dlChannelReq body) := of_body rfl rfl

end Sys2Proof.Laws.EncodeLength
end

