-- ==== Sys2Proof/Laws/Walk.lean ====
section
/-! SUPPORT. The walk of a command stream does not depend on its bound: the remaining length is always enough (R40). -/

namespace Sys2Proof.Machine

variable (tab : CmdTab) (dir : Direction)

@[simp] theorem walk_nil (n pos : Nat) : walk tab dir n pos [] = ⟨[], .complete⟩ := by cases n <;> rfl

/-- Any two bounds that are long enough give the same walk. -/
theorem walk_bound {n m : Nat} {rest : Bytes} (hn : rest.length ≤ n) (hm : rest.length ≤ m) (pos : Nat) :
    walk tab dir n pos rest = walk tab dir m pos rest := by
  induction n generalizing m pos rest with
  | zero =>
    have : rest = [] := List.length_eq_zero_iff.mp (by omega)
    subst this; simp
  | succ n ih =>
    cases rest with
    | nil => simp
    | cons id rest =>
      cases m with
      | zero => simp at hm
      | succ m =>
        simp only [List.length_cons] at hn hm
        simp only [walk]
        split
        · rfl
        · rename_i row _
          split
          · rfl
          · rw [ih (m := m) (rest := rest.drop row.len) (by simp; omega) (by simp; omega)]

end Sys2Proof.Machine
end

