-- ==== Sys2Proof/Tests/Slice0.lean ====
section
/-! SUPPORT. Tests: the smoke test of WellFormed, the decoding of every constructor from words written out from the
spec's tables, vectors of spec/95_test_vectors.md (named in each comment), and a witness for every statement that has
hypotheses. Expected values are the spec's, not the model's. -/

open Sys2Proof Sys2Proof.Machine

namespace Sys2Proof.Tests

set_option Elab.async false

/-! ### Small states -/

/-- The n bytes of a hexadecimal number, most significant first, as the vectors print them. -/
def hx (n v : Nat) : Bytes := (List.range n).map fun i => BitVec.ofNat 8 (v / 256 ^ (n - 1 - i))

/-- The key K1 of the vectors. -/
def k1 : Block := blockOf (hx 16 0xAAAAAAAAAAAAAAAAAAAAAAAAAAAAAABB)

/-- The key K2 of the vectors. -/
def k2 : Block := blockOf (hx 16 0x2b7e151628aed2a6abf7158809cf4f3c)

/-- Reset, then an `OP`, an input and a direction written. -/
def plain (op : BitVec 4) (dir : Bit) (bs : Bytes) : State :=
  { setInput bs State.reset with op := some op, dir := some dir }

/-- The same with `KEY_NWK` = K2 and `KEY_APP` = K1 present and `BE` = 1. -/
def keyed (op : BitVec 4) (dir : Bit) (bs : Bytes) : State :=
  { plain op dir bs with keyNwk := some k2, keyNwkV := 1, keyApp := some k1, keyAppV := 1, be := some 1 }

/-- The same with the operands of vector T1 and `KSEL` = 1. -/
def t1 (op : BitVec 4) (dir : Bit) (bs : Bytes) : State :=
  { keyed op dir bs with ksel := some 1, addr := some #v[0xBE, 0xEF, 0x00, 0xB1], cnt := some #v[0, 0, 0, 0x0D] }

/-- The same with the operands of vector T2 and `KSEL` = 0. -/
def t2 (op : BitVec 4) (dir : Bit) (bs : Bytes) : State :=
  { keyed op dir bs with ksel := some 0, addr := some #v[0x00, 0x00, 0xBA, 0xAD], cnt := some #v[0, 0, 0, 3] }

/-- The next state, where there is one. -/
def nextOf : Host.Outcome State Fault Refusal → Option State
  | .next t => some t
  | .fault _ => none
  | .refused _ => none

/-- The place and the state of a fault. -/
def faultOf : Host.Outcome State Fault Refusal → Option (Place × State)
  | .next _ => none
  | .fault (.malformedLength p t) => some (p, t)
  | .refused _ => none

/-- The reason of a refusal. -/
def refusalOf : Host.Outcome State Fault Refusal → Option Refusal
  | .next _ => none
  | .fault _ => none
  | .refused r => some r

/-- The report of a next state. -/
def reportOf (o : Host.Outcome State Fault Refusal) : Option Report := (nextOf o).bind (·.report)

/-- The data part of a next state's report. -/
def dataOf (o : Host.Outcome State Fault Refusal) : Option DataReport := (reportOf o).bind (·.data)

/-- The error of a next state. -/
def errOf (o : Host.Outcome State Fault Refusal) : Option Err := (nextOf o).bind (·.err)

/-- The output of a next state. -/
def outOf (o : Host.Outcome State Fault Refusal) : Option Memory := (nextOf o).bind (·.out)

/-- The fields of the only command of a next state's stream. -/
def fieldsOf (o : Host.Outcome State Fault Refusal) : Option (List (FieldName × Int)) :=
  match (reportOf o).bind (·.stream) with
  | some ⟨[c], .complete⟩ => some c.fields
  | _ => none

/-! ### WellFormed: one ill-formed term for each check -/

theorem test_wellFormed_refuses_uplink :
    (Instr.linkCheckReq [0]).wellFormed = false ∧ (Instr.linkADRAns []).wellFormed = false ∧
    (Instr.dutyCycleAns [0]).wellFormed = false ∧ (Instr.rxParamSetupAns [0, 0]).wellFormed = false ∧
    (Instr.devStatusAns [0]).wellFormed = false ∧ (Instr.newChannelAns []).wellFormed = false ∧
    (Instr.rxTimingSetupAns [0]).wellFormed = false ∧ (Instr.txParamSetupAns [0]).wellFormed = false ∧
    (Instr.dlChannelAns []).wellFormed = false := by decide

theorem test_wellFormed_refuses_downlink :
    (Instr.linkCheckAns [0]).wellFormed = false ∧ (Instr.linkADRReq [0, 0, 0]).wellFormed = false ∧
    (Instr.dutyCycleReq []).wellFormed = false ∧ (Instr.rxParamSetupReq [0, 0, 0, 0, 0]).wellFormed = false ∧
    (Instr.devStatusReq [0]).wellFormed = false ∧ (Instr.newChannelReq [0, 0, 0, 0]).wellFormed = false ∧
    (Instr.rxTimingSetupReq []).wellFormed = false ∧ (Instr.txParamSetupReq [0, 0]).wellFormed = false ∧
    (Instr.dlChannelReq [0, 0, 0]).wellFormed = false := by decide

/-! ### Decoding, from the tables of R100, R82 and R181 to R198 -/

/-- The table of R100; R101 for 0, 10 and 15. -/
theorem test_decode_op :
    decode .op [0x01] = .ok (.decode, []) ∧ decode .op [0x02] = .ok (.cipher, []) ∧
    decode .op [0x03] = .ok (.macparse, []) ∧ decode .op [0x04] = .ok (.fhdr, []) ∧
    decode .op [0x05] = .ok (.mhdr, []) ∧ decode .op [0x06] = .ok (.fctrl, []) ∧
    decode .op [0x07] = .ok (.joinreq, []) ∧ decode .op [0x08] = .ok (.joinacc, []) ∧
    decode .op [0x09] = .ok (.aesblk, []) := by decide

/-- R101 and R21: the reserved values, and a byte that is no 4-bit value. -/
theorem test_decode_op_reserved :
    decode .op [0x00] = .error (.reservedOp 0) ∧
    decode .op [0x0A] = .error (.reservedOp 10) ∧ decode .op [0x0F] = .error (.reservedOp 15) ∧
    decode .op [0x10] = .error (.notFourBits 0x10) := by decide

/-- The table of R82, with the reserved fields of R81 at values that tell them apart. -/
theorem test_decode_mhdr :
    decode .mhdr [0b00011100] = .ok (.ftJoinrequest 7 0, []) ∧ decode .mhdr [0b00100101] = .ok (.ftJoinaccept 1 1, []) ∧
    decode .mhdr [0b01011101] = .ok (.ftUnconfirmedup 7 1, []) ∧
    decode .mhdr [0b01110010] = .ok (.ftUnconfirmeddown 4 2, []) ∧
    decode .mhdr [0b10000000] = .ok (.ftConfirmedup 0 0, []) ∧
    decode .mhdr [0b10101011] = .ok (.ftConfirmeddown 2 3, []) ∧
    decode .mhdr [0b11000011] = .ok (.ftReserved 0 3, []) ∧ decode .mhdr [0b11111111] = .ok (.ftProprietary 7 3, []) ∧
    decode .mhdr [] = .error .noBytes := by decide

/-- Vectors V-M1 to V-M9: one per uplink row, with a byte after it that stays. -/
theorem test_decode_uplink_commands :
    decode (.cmd .uplink) [0x02, 0x99] = .ok (.linkCheckReq [], [0x99]) ∧
    decode (.cmd .uplink) [0x03, 0x07, 0x99] = .ok (.linkADRAns [0x07], [0x99]) ∧
    decode (.cmd .uplink) [0x04, 0x99] = .ok (.dutyCycleAns [], [0x99]) ∧
    decode (.cmd .uplink) [0x05, 0x05, 0x99] = .ok (.rxParamSetupAns [0x05], [0x99]) ∧
    decode (.cmd .uplink) [0x06, 0xFF, 0x20, 0x99] = .ok (.devStatusAns [0xFF, 0x20], [0x99]) ∧
    decode (.cmd .uplink) [0x07, 0x03, 0x99] = .ok (.newChannelAns [0x03], [0x99]) ∧
    decode (.cmd .uplink) [0x08, 0x99] = .ok (.rxTimingSetupAns [], [0x99]) ∧
    decode (.cmd .uplink) [0x09, 0x99] = .ok (.txParamSetupAns [], [0x99]) ∧
    decode (.cmd .uplink) [0x0A, 0x01, 0x99] = .ok (.dlChannelAns [0x01], [0x99]) ∧
    decode (.cmd .uplink) [0x0B] = .error (.unknownIdentifier 0x0B .uplink) := by decide

/-- Vectors V-M10 to V-M18: one per downlink row. -/
theorem test_decode_downlink_commands :
    decode (.cmd .downlink) [0x02, 0x7F, 0x02, 0x99] = .ok (.linkCheckAns [0x7F, 0x02], [0x99]) ∧
    decode (.cmd .downlink) [0x03, 0x52, 0xFF, 0x00, 0x01, 0x99] = .ok (.linkADRReq [0x52, 0xFF, 0x00, 0x01], [0x99]) ∧
    decode (.cmd .downlink) [0x04, 0x0F, 0x99] = .ok (.dutyCycleReq [0x0F], [0x99]) ∧
    decode (.cmd .downlink) [0x05, 0x23, 0xD2, 0xAD, 0x84, 0x99] =
      .ok (.rxParamSetupReq [0x23, 0xD2, 0xAD, 0x84], [0x99]) ∧
    decode (.cmd .downlink) [0x06, 0x99] = .ok (.devStatusReq [], [0x99]) ∧
    decode (.cmd .downlink) [0x07, 0x03, 0xD2, 0xAD, 0x84, 0x50, 0x99] =
      .ok (.newChannelReq [0x03, 0xD2, 0xAD, 0x84, 0x50], [0x99]) ∧
    decode (.cmd .downlink) [0x08, 0x0F, 0x99] = .ok (.rxTimingSetupReq [0x0F], [0x99]) ∧
    decode (.cmd .downlink) [0x09, 0x2F, 0x99] = .ok (.txParamSetupReq [0x2F], [0x99]) ∧
    decode (.cmd .downlink) [0x0A, 0x03, 0x28, 0x76, 0x84, 0x99] =
      .ok (.dlChannelReq [0x03, 0x28, 0x76, 0x84], [0x99]) ∧
    decode (.cmd .downlink) [0x02, 0x14] = .error (.shortBody 0x02 .downlink) := by decide

/-- Table words of the groups that have words of their own (log 10). -/
theorem test_decodeTableWord :
    decodeTableWord 8 0x03 = some .macparse ∧ decodeTableWord 4 0x09 = some .aesblk ∧
    decodeTableWord 4 0x0A = none ∧ decodeTableWord 8 0x0A = some (.dlChannelAns [0]) ∧
    decodeTableWord 8 0x5D = some (.ftUnconfirmedup 7 1) ∧ decodeTableWord 8 0x00 = some (.ftJoinrequest 0 0) := by
  decide

/-- A table word's request, from reset: the next step runs the word's instruction to completion. -/
theorem test_withFetchWord :
    (nextOf (step (State.reset.withFetchWord 8 0x01))).isSome = true ∧
    nextOf (step (State.reset.withFetchWord 8 0x60)) =
      nextOf (exec (.ftUnconfirmeddown 0 0) (State.reset.withFetchWord 8 0x60)) ∧
    errOf (step (State.reset.withFetchWord 8 0xC3)) = some (.unsupportedFrameType .reserved) ∧
    nextOf (step (State.reset.withFetchWord 8 0x0A)) =
      nextOf (exec (.dlChannelAns [0]) (State.reset.withFetchWord 8 0x0A)) ∧
    refusalOf (step (State.reset.withFetchWord 4 0x0C)) = some (.reservedOp 12) := by decide +kernel

/-! ### AESBLK and CIPHER -/

/-- FIPS-197 Appendix C.1, as the vectors' file gives it. -/
theorem test_aes128_fips_c1 :
    aes128 (blockOf (hx 16 0x000102030405060708090a0b0c0d0e0f)) (blockOf (hx 16 0x00112233445566778899aabbccddeeff)) =
      blockOf (hx 16 0x69c4e0d86a7b0430d8cdb78070b4c55a) := by decide +kernel

/-- FIPS-197 Appendix B, as the vectors' file gives it. -/
theorem test_aes128_fips_b :
    aes128 k2 (blockOf (hx 16 0x3243f6a8885a308d313198a2e0370734)) =
      blockOf (hx 16 0x3925841d02dc09fbdc118597196a0b32) := by decide +kernel

/-- V-C1. -/
theorem test_aesblk :
    outOf (step (t2 9 0 (hx 16 0x010000000001adba0000030000000001))) =
      some (Memory.ofBytes (hx 16 0x7984764ba7d15b8f3e00bace3e1b65ed)) := by decide +kernel

/-- V-C2 and V-C3: the key test comes before the length test. -/
theorem test_aesblk_errors :
    errOf (step { t2 9 0 (hx 16 0) with keyNwkV := 0 }) = some (.missingKey .network) ∧
    errOf (step { t1 9 0 (hx 15 0) with keyAppV := 0 }) = some (.missingKey .application) ∧
    ((faultOf (step (t1 9 0 (hx 15 0)))).map Prod.fst = some .aesblk) ∧
    ((faultOf (step (t1 9 0 (hx 17 0)))).map Prod.fst = some .aesblk) := by decide +kernel

/-- T1, and the same with the operands reversed and `BE` = 0 (V-BE). -/
theorem test_cipher_T1 :
    let input := hx 26 0xCCBFE651AE1E2342466C6D63FC55951C1A392AA413D4C82B5AEA
    outOf (step (t1 2 0 input)) = some (Memory.ofBytes (hx 4 0x00000a08 ++ List.replicate 22 0)) ∧
    outOf (step { t1 2 0 input with addr := some #v[0xB1, 0x00, 0xEF, 0xBE], cnt := some #v[0x0D, 0, 0, 0]
                                    be := some 0 }) =
      some (Memory.ofBytes (hx 4 0x00000a08 ++ List.replicate 22 0)) := by decide +kernel

/-- T2; V-C4 for L = 0 and L = 17; P6 step 3. -/
theorem test_cipher_T2 :
    outOf (step (t2 2 1 [0x79, 0x86])) = some (Memory.ofBytes [0x00, 0x02]) ∧
    outOf (step (t2 2 1 [])) = some [] ∧
    outOf (step (t2 2 1 (hx 17 0))) = some (Memory.ofBytes (hx 17 0x7984764ba7d15b8f3e00bace3e1b65ede9)) ∧
    errOf (step { t2 2 0 [0, 0] with keyNwkV := 0 }) = some (.missingKey .network) := by decide +kernel

/-- V-C5: the block counter is taken modulo 256. -/
theorem test_keystream_wrap :
    keystream aes128 k2 1 #v[0xAD, 0xBA, 0, 0] #v[3, 0, 0, 0] 256 =
      blockOf (hx 16 0xcc8c9e9923852cc4a643e5f09c839811) ∧
    blockA 1 #v[0xAD, 0xBA, 0, 0] #v[3, 0, 0, 0] 257 = blockOf (hx 16 0x010000000001ADBA0000030000000001) := by
  decide +kernel

/-! ### MHDR, FCTRL, FHDR -/

/-- V-F1. -/
theorem test_mhdr :
    reportOf (step (plain 5 0 [0x5D])) = some { mhdr := some ⟨.unconfirmedUp, 7, 1⟩, direction := some .uplink } ∧
    reportOf (step (plain 5 0 [0xA0])) = some { mhdr := some ⟨.confirmedDown, 0, 0⟩, direction := some .downlink } ∧
    reportOf (step (plain 5 0 [0xFF])) = some { mhdr := some ⟨.proprietary, 7, 3⟩ } ∧
    (faultOf (step (plain 5 0 []))).map Prod.fst = some .mhdr ∧
    (faultOf (step (plain 5 0 [0x40, 0x00]))).map Prod.fst = some .mhdr := by decide +kernel

/-- V-F2: one byte in both directions. -/
theorem test_fctrl :
    reportOf (step (plain 6 1 [0xB3])) = some { fctrl := some { raw := 0xB3, adr := 1, rfu6 := some 0, ack := 1, fpending := some 1, foptslen := 3 } } ∧
    reportOf (step (plain 6 0 [0xB3])) = some { fctrl := some { raw := 0xB3, adr := 1, adrackreq := some 0, ack := 1, classb := some 1, foptslen := 3 } } ∧
    reportOf (step (plain 6 0 [0x40])) = some { fctrl := some { raw := 0x40, adr := 0, adrackreq := some 1, ack := 0, classb := some 0, foptslen := 0 } } ∧
    (faultOf (step (plain 6 0 [0, 0]))).map Prod.fst = some .fctrl := by decide +kernel

/-- V-F3 e, and the counters of f. -/
theorem test_fhdr :
    dataOf (step (plain 4 1 (hx 17 0xadba0000300300007b90774e8403f60b38))) = some
      { devAddr := some 0x0000BAAD
        fctrl := some { raw := 0x30, adr := 0, rfu6 := some 0, ack := 1, fpending := some 1, foptslen := 0 }
        fcnt16 := some 3, fcnt32 := some 3, fopts := some ⟨[], .complete⟩, port := some 0
        frm := some (hx 9 0x7b90774e8403f60b38), frmClass := some .commands } ∧
    (dataOf (step { plain 4 0 (hx 13 0xb100efbe000d002a9bda4c8ffb) with fcntHi := 1 })).map
      (fun d => (d.fcnt16, d.fcnt32, d.port, d.frmClass)) = some (some 13, some 65549, some 42, some .appData) := by
  decide +kernel

/-- V-F3 h, i, j, l and m: the errors. -/
theorem test_fhdr_errors :
    errOf (step (plain 4 0 (hx 10 0xb100efbe010d000200aa))) = some .conflictingCommandPlacement ∧
    (faultOf (step (plain 4 0 (hx 6 0xb100efbe0001)))).map (fun r => (r.1, r.2.report)) =
      some (.fhdr, some { direction := some .uplink }) ∧
    (faultOf (step (plain 4 0 (hx 9 0xb100efbe0501000204)))).map Prod.fst = some .fopts ∧
    (faultOf (step (plain 4 1 (hx 9 0xb100efbe0201000350)))).map Prod.fst = some .cmdBody ∧
    (errOf (step (plain 4 0 (hx 10 0xb100efbe020100800200))) = some (.unrecognizedCommand 0x80 0) ∧
      (dataOf (step (plain 4 0 (hx 10 0xb100efbe020100800200)))).map (·.frmClass) = some (some .conflict)) := by
  decide +kernel

/-! ### MACPARSE and the commands -/

/-- V-M20 and V-M22. -/
theorem test_macparse :
    (reportOf (step (plain 3 0 [0x02, 0x03, 0x07, 0x80, 0x06, 0xFF, 0x20]))).bind (·.stream) = some
      ⟨[⟨0x02, .uplink, .linkCheckReq, [], []⟩,
        ⟨0x03, .uplink, .linkADRAns, [0x07], [(.powerAck, 1), (.datarateAck, 1), (.chmaskAck, 1)]⟩],
        .unrecognized 0x80 3⟩ ∧
    errOf (step (plain 3 0 [0x02, 0x03, 0x07, 0x80, 0x06, 0xFF, 0x20])) = some (.unrecognizedCommand 0x80 3) ∧
    (faultOf (step (plain 3 1 [0x02, 0x14]))).map (fun r => (r.1, r.2.report.bind (·.stream))) =
      some (.cmdBody, some ⟨[], .shortBody 0x02 0⟩) := by decide +kernel

/-- V-M23: a stream of three commands. -/
theorem test_macparse_three :
    (reportOf (step (plain 3 1 (hx 9 0x0214010523D2AD8406)))).bind (·.stream) = some
      ⟨[⟨0x02, .downlink, .linkCheckAns, [0x14, 0x01], [(.margin, 20), (.gwcnt, 1)]⟩,
        ⟨0x05, .downlink, .rxParamSetupReq, [0x23, 0xD2, 0xAD, 0x84],
          [(.rx1droffset, 2), (.rx2datarate, 3), (.freqHz, 869525000)]⟩,
        ⟨0x06, .downlink, .devStatusReq, [], []⟩], .complete⟩ := by decide +kernel

/-- V-M5. -/
theorem test_devStatusAns :
    fieldsOf (exec (.devStatusAns [0xFF, 0x20]) State.reset) = some [(.battery, 255), (.margin, -32)] ∧
    fieldsOf (exec (.devStatusAns [0x00, 0x3F]) State.reset) = some [(.battery, 0), (.margin, -1)] ∧
    fieldsOf (exec (.devStatusAns [0x00, 0x1F]) State.reset) = some [(.battery, 0), (.margin, 31)] := by decide +kernel

/-- V-M1 to V-M9 but V-M5. -/
theorem test_uplink_commands :
    fieldsOf (exec (.linkCheckReq []) State.reset) = some [] ∧
    fieldsOf (exec (.linkADRAns [0x02]) State.reset) = some [(.powerAck, 0), (.datarateAck, 1), (.chmaskAck, 0)] ∧
    fieldsOf (exec (.dutyCycleAns []) State.reset) = some [] ∧
    fieldsOf (exec (.rxParamSetupAns [0x05]) State.reset) =
      some [(.rx1droffsetAck, 1), (.rx2datarateAck, 0), (.channelAck, 1)] ∧
    fieldsOf (exec (.newChannelAns [0x03]) State.reset) = some [(.datarateRangeOk, 1), (.channelFreqOk, 1)] ∧
    fieldsOf (exec (.rxTimingSetupAns []) State.reset) = some [] ∧
    fieldsOf (exec (.txParamSetupAns []) State.reset) = some [] ∧
    fieldsOf (exec (.dlChannelAns [0x01]) State.reset) = some [(.uplinkFreqExists, 0), (.channelFreqOk, 1)] := by
  decide +kernel

/-- V-M10 to V-M18. -/
theorem test_downlink_commands :
    fieldsOf (exec (.linkCheckAns [0x7F, 0x02]) State.reset) = some [(.margin, 127), (.gwcnt, 2)] ∧
    fieldsOf (exec (.linkADRReq [0x52, 0xFF, 0x00, 0x01]) State.reset) =
      some [(.datarate, 5), (.txpower, 2), (.chmask, 255), (.chmaskcntl, 0), (.nbtrans, 1)] ∧
    fieldsOf (exec (.dutyCycleReq [0x0F]) State.reset) = some [(.maxdcycle, 15)] ∧
    fieldsOf (exec (.rxParamSetupReq [0x23, 0xD2, 0xAD, 0x84]) State.reset) =
      some [(.rx1droffset, 2), (.rx2datarate, 3), (.freqHz, 869525000)] ∧
    fieldsOf (exec (.devStatusReq []) State.reset) = some [] ∧
    fieldsOf (exec (.newChannelReq [0x03, 0xD2, 0xAD, 0x84, 0x50]) State.reset) =
      some [(.chindex, 3), (.freqHz, 869525000), (.maxdr, 5), (.mindr, 0)] ∧
    fieldsOf (exec (.rxTimingSetupReq [0x0F]) State.reset) = some [(.delay, 15)] ∧
    fieldsOf (exec (.txParamSetupReq [0x2F]) State.reset) =
      some [(.downlinkDwell, 1), (.uplinkDwell, 0), (.maxeirp, 15)] ∧
    fieldsOf (exec (.dlChannelReq [0x03, 0x28, 0x76, 0x84]) State.reset) =
      some [(.chindex, 3), (.freqHz, 868100000)] := by decide +kernel

/-! ### JOINREQ, JOINACC -/

/-- V-J1 and V-J2. -/
theorem test_joinreq :
    reportOf (step (plain 7 0 (hx 18 0x08070605040302011817161514131211A1B2))) = some
      { joinreq := some ⟨0x0102030405060708, 0x1112131415161718, [0xA1, 0xB2]⟩ } ∧
    (faultOf (step (plain 7 0 (hx 17 0)))).map Prod.fst = some .joinreq ∧
    (faultOf (step (plain 7 0 (hx 19 0)))).map Prod.fst = some .joinreq := by decide +kernel

/-- V-J3, V-J4 and V-J5. -/
theorem test_joinacc :
    reportOf (step (plain 8 0 (hx 12 0x010203130000ADBA00000301))) = some
      { direction := some .downlink, joinacc := some ⟨0x030201, 0x000013, 0x0000BAAD, 0x03, 0x01, none⟩ } ∧
    ((reportOf (step (plain 8 0 (hx 28 0x010203130000ADBA00000301184F84E85684B85E84886684586E8400)))).bind
      (·.joinacc)).map (·.cflist) = some (some (hx 16 0x184f84e85684b85e84886684586e8400)) ∧
    (faultOf (step (plain 8 0 (hx 13 0)))).map (fun r => (r.1, r.2.report)) = some (.joinacc, some {}) := by
  decide +kernel

/-! ### DECODE -/

/-- T3. -/
theorem test_decode_T3 :
    reportOf (step (plain 1 0 (hx 29 0x402105810080160102a6bf4432169ea0784416868d9420dd244619443e))) = some
      { mhdr := some ⟨.unconfirmedUp, 0, 0⟩, direction := some .uplink
        body := some (hx 24 0x2105810080160102a6bf4432169ea0784416868d9420dd24), tag := some (hx 4 0x4619443e)
        data := some
          { devAddr := some 0x00810521
            fctrl := some { raw := 0x80, adr := 1, adrackreq := some 0, ack := 0, classb := some 0, foptslen := 0 }
            fcnt16 := some 278, fcnt32 := some 278, fopts := some ⟨[], .complete⟩, port := some 2
            frm := some (hx 16 0xa6bf4432169ea0784416868d9420dd24), frmClass := some .appData } } := by decide +kernel

/-- P2: a confirmed downlink with body commands under the network key. -/
theorem test_decode_P2 :
    (dataOf (step (keyed 1 0 (hx 22 0xA0ADBA0000300300007B90774E8403F60B3801020304)))).map
      (fun d => (d.frmPlain, d.frmCmds.map (fun c => c.cmds.map (·.name)))) =
      some (some (hx 9 0x0214010523d2ad8406), some [.linkCheckAns, .rxParamSetupReq, .devStatusReq]) := by
  decide +kernel

/-- P1: inline commands and application data (instruction FT_UNCONFIRMEDUP), and the variant without the key. -/
theorem test_decode_P1 :
    let f := hx 42 0x40B100EFBE830D0002030701CCBFE651AE1E2342466C6D63FC55951C1A392AA413D4C82B5AEADEADBEEF
    (dataOf (exec (.ftUnconfirmedup 0 0) (keyed 1 0 f))).map (fun d => (d.fcnt32, d.port, d.frmPlain)) =
      some (some 13, some 1, some (hx 4 0x00000a08 ++ List.replicate 22 0)) ∧
    (dataOf (step { keyed 1 0 f with keyAppV := 0, be := none })).map (·.frmPlain) = some none := by decide +kernel

/-- P2b (instruction FT_UNCONFIRMEDDOWN): the plaintext is no command stream. -/
theorem test_decode_P2b :
    errOf (exec (.ftUnconfirmeddown 0 0) (keyed 1 0 (hx 15 0x60ADBA000000030000798601020304))) =
      some (.unrecognizedCommand 0x00 0) := by decide +kernel

/-- P5 step 3 (instruction FT_CONFIRMEDUP): `FCNT_HI` reaches the cipher. -/
theorem test_decode_P5 :
    (dataOf (exec (.ftConfirmedup 0 0)
      { keyed 1 0 (hx 18 0x80B100EFBE000D002A9BDA4C8FFB11223344) with fcntHi := 1 })).map (·.frmPlain) =
      some (some (hx 5 0x48454c4c4f)) := by decide +kernel

/-- V-D8 in a confirmed downlink frame (instruction FT_CONFIRMEDDOWN): a diagnostic body stays raw. -/
theorem test_decode_diagnostic :
    (dataOf (exec (.ftConfirmeddown 0 0) (keyed 1 0 (hx 15 0xA0B100EFBE000100E0AABB11223344)))).map
      (fun d => (d.port, d.frm, d.frmClass, d.frmPlain)) =
      some (some 224, some [0xAA, 0xBB], some .diagnostic, none) := by decide +kernel

/-- V-D1, V-D2, V-D12 and V-D13. -/
theorem test_decode_short :
    errOf (step (plain 1 0 (hx 4 0x40000000))) = some .truncatedFrame ∧
    reportOf (step (plain 1 0 (hx 4 0x40000000))) = some {} ∧
    (faultOf (step (plain 1 0 (hx 5 0x4000000000)))).map Prod.fst = some .fhdr ∧
    (faultOf (step (plain 1 0 (hx 22 0x0A0B0C0D)))).map Prod.fst = some .joinreq ∧
    (faultOf (step (plain 1 0 (0x20 :: hx 17 0x0A0B0C0D)))).map Prod.fst = some .joinacc := by decide +kernel

/-- V-D3 and V-D4 (instructions FT_RESERVED and FT_PROPRIETARY). -/
theorem test_decode_unsupported :
    reportOf (exec (.ftReserved 0 3) (plain 1 0 (hx 5 0xC300000000))) = some
      { mhdr := some ⟨.reserved, 0, 3⟩, body := some [], tag := some [0, 0, 0, 0] } ∧
    errOf (exec (.ftProprietary 0 0) (plain 1 0 (hx 10 0xE0010203040500000000))) =
      some (.unsupportedFrameType .proprietary) := by decide +kernel

/-- P4 (instructions FT_JOINREQUEST and FT_JOINACCEPT). -/
theorem test_decode_join :
    (reportOf (exec (.ftJoinrequest 0 0) (plain 1 0 (hx 23 0x0008070605040302011817161514131211A1B20A0B0C0D)))).map
      (fun r => (r.direction, r.joinreq, r.tag)) =
      some (none, some ⟨0x0102030405060708, 0x1112131415161718, [0xA1, 0xB2]⟩, some [0x0A, 0x0B, 0x0C, 0x0D]) ∧
    (reportOf (exec (.ftJoinaccept 0 0) (plain 1 0 (hx 17 0x20010203130000ADBA000003010A0B0C0D)))).map
      (fun r => (r.direction, r.joinacc)) =
      some (some .downlink, some ⟨0x030201, 0x000013, 0x0000BAAD, 0x03, 0x01, none⟩) := by decide +kernel

/-- V-D5 and V-D9. -/
theorem test_decode_inline_errors :
    errOf (step (keyed 1 0 (hx 15 0x40B100EFBE010D000200AA00000000))) = some .conflictingCommandPlacement ∧
    errOf (step (plain 1 0 (hx 19 0x40B100EFBE0401000204800605AABB11223344))) = some (.unrecognizedCommand 0x80 2) := by
  decide +kernel

/-! ### Refusals and the host -/

/-- P6 steps 1 and 2, and a result read from reset. -/
theorem test_refusals :
    refusalOf (step State.reset) = some (.noValue .op) ∧
    refusalOf (step { State.reset with op := some 12 }) = some (.reservedOp 12) ∧
    refusalOf (step { State.reset with op := some 1 }) = some (.noValue .inLen) ∧
    (hostReadReport State.reset).toOption = none := by decide +kernel

/-- R38, R45: every request register and `STATUS` read from reset, the two valid bits and `FCNT_HI` as R45 gives them. -/
theorem test_reset_reads :
    hostReadStatus State.reset = .idle ∧ hostReadKeyNwkV State.reset = 0 ∧ hostReadKeyAppV State.reset = 0 ∧
    hostReadFcntHi State.reset = 0 ∧ hostReadBe State.reset = none ∧ hostReadIn State.reset 0 = none := by decide

/-- P6 step 4 as host moves: a refused start changes nothing, and the run goes on. -/
theorem test_host_moves :
    (runMoves [.start, .write (.op 1), .write (.inBytes 0 [0x40, 0, 0, 0]), .write (.inLen 4), .start] State.reset).err =
      some .truncatedFrame := by decide +kernel

/-- V-H. -/
theorem test_hexIngest :
    hexIngest "40.21.5.81".toList = .bytes [0x40, 0x21, 0x05, 0x81] ∧
    hexIngest "0x40 0x21 0x05".toList = .bytes [0x40, 0x21, 0x05] ∧
    hexIngest "4021 0581".toList = .bytes [0x40, 0x21, 0x05, 0x81] ∧
    hexIngest "402105810080".toList = .bytes [0x40, 0x21, 0x05, 0x81, 0x00, 0x80] ∧
    hexIngest "402".toList = .malformed ∧ hexIngest "4g".toList = .malformed ∧
    hexIngest "40.2g".toList = .malformed ∧ hexIngest "40,21".toList = .undecided := by decide +kernel

/-- R253 and U26: `0X` however the strip steps are ordered, an order that matters, one that does not (odd either way),
and one-digit groups that whitespace alone separates. -/
theorem test_hexIngest_open :
    hexIngest "0X40".toList = .undecided ∧ hexIngest "0 X40".toList = .undecided ∧
    hexIngest "0 x40".toList = .undecided ∧ hexIngest "0 x4".toList = .malformed ∧
    hexIngest "40..21".toList = .undecided ∧ hexIngest "402.1".toList = .undecided ∧
    hexIngest "4 2".toList = .bytes [0x42] := by decide +kernel

/-! ### Witnesses: a concrete state and operands that meet the hypotheses of each statement -/

theorem witness_DecodeOfEncodedInstruction :
    (Instr.newChannelReq (hx 5 0)).wellFormed = true ∧ (Instr.linkCheckReq []).wellFormed = true ∧
    (Instr.ftProprietary 7 3).wellFormed = true ∧ Instr.aesblk.wellFormed = true := by decide

theorem witness_EncodeOfDecodedBytes :
    decode (.cmd .downlink) [0x04, 0x0F, 0x99] = .ok (.dutyCycleReq [0x0F], [0x99]) ∧
    decode .op [0x09] = .ok (.aesblk, []) ∧ decode .mhdr [0xFF] = .ok (.ftProprietary 7 3, []) := by decide

theorem witness_StepRunsDecodedOperation :
    (plain 9 0 []).op = some 9 ∧ decode .op [(9 : BitVec 4).setWidth 8] = .ok (.aesblk, []) := by decide

theorem witness_OpTableSelectsOperation (c : BitVec 4) : (plain c 0 []).op = some c := rfl

theorem witness_DecodeRunsFrameTypeOfHeader :
    (plain 1 0 (hx 5 0xC300000000)).op = some 1 ∧ (plain 1 0 (hx 5 0xC300000000)).HasInput (hx 5 0xC300000000) ∧
    decode .mhdr (hx 5 0xC300000000) = .ok (.ftReserved 0 3, [0, 0, 0, 0]) ∧
    (plain 1 0 (hx 4 0x40000000)).HasInput (hx 4 0x40000000) ∧ (hx 4 0x40000000).length < 5 := by decide +kernel

theorem witness_MacparseRunsCommand :
    (plain 3 1 [0x02, 0x7F, 0x02]).op = some 3 ∧ (plain 3 1 [0x02, 0x7F, 0x02]).dir = some Direction.downlink.bit ∧
    (plain 3 1 [0x02, 0x7F, 0x02]).HasInput [0x02, 0x7F, 0x02] ∧
    decode (.cmd .downlink) [0x02, 0x7F, 0x02] = .ok (.linkCheckAns [0x7F, 0x02], []) := by decide +kernel

/-- A next state and a fault. -/
theorem witness_OperationsWriteOnlyResults :
    (nextOf (exec .mhdr (plain 5 0 [0x40]))).isSome = true ∧
    ∃ t, completedIn (exec .mhdr (plain 5 0 [])) t :=
  ⟨by decide +kernel, _, .inr ⟨_, rfl⟩⟩

/-- Two states that differ in their results only. -/
theorem witness_StepDependsOnRequestAlone :
    (plain 5 0 [0x40]).request = (complete (plain 5 0 [0x40]) {} []).request ∧
    plain 5 0 [0x40] ≠ complete (plain 5 0 [0x40]) {} [] := by decide +kernel

theorem witness_OperationsAreIdempotent : ∃ t, exec .mhdr (plain 5 0 [0x40]) = .next t := ⟨_, rfl⟩

/-- A request written by the host from reset meets the invariant. -/
theorem plain_inv (op : BitVec 4) (dir : Bit) (bs : Bytes) : (plain op dir bs).Inv :=
  ⟨fun m h => by cases h; exact Memory.wf_ofBytes bs, fun _ => ⟨rfl, rfl, rfl, rfl⟩, fun h => by cases h⟩

/-- From IDLE, with a next state and with a fault. -/
theorem witness_StepKeepsInvariant :
    (plain 5 0 [0x40]).Inv ∧ (∃ t, completedIn (step (plain 5 0 [0x40])) t) ∧
    (plain 5 0 []).Inv ∧ ∃ t, completedIn (step (plain 5 0 [])) t :=
  ⟨plain_inv _ _ _, ⟨_, .inl rfl⟩, plain_inv _ _ _, _, .inr ⟨_, rfl⟩⟩

theorem witness_HostWriteKeepsInvariant :
    (plain 5 0 [0x40]).Inv ∧ ∃ t, hostWrite Config.hw (.inBytes 1 [0x01]) (plain 5 0 [0x40]) = .next t :=
  ⟨plain_inv _ _ _, _, rfl⟩

theorem witness_ErrorsOfEachOperation :
    Instr.mhdr ∈ operations ∧ ∃ t, completedIn (exec .mhdr (plain 5 0 [])) t ∧ t.err = some (.malformedLength .mhdr) :=
  ⟨by decide, _, .inr ⟨_, rfl⟩, rfl⟩

/-- An input, an operand and a key without a value, and an `IN` with one byte less than `IN_LEN`. -/
theorem witness_UnwrittenRegisterRefused :
    (Reg.inBuf ∈ alwaysRead .decode ∧ holdsNoValue State.reset .inBuf = true) ∧
    (Reg.cnt ∈ alwaysRead .cipher ∧ holdsNoValue (keyed 2 0 []) .cnt = true) ∧
    (Reg.inLen ∈ alwaysRead (.ftReserved 0 0) ∧ holdsNoValue State.reset .inLen = true) ∧
    ({ t2 9 0 [] with keyNwk := none }.ksel = some 0 ∧ { t2 9 0 [] with keyNwk := none }.keyNwkV = 1 ∧
      { t2 9 0 [] with keyNwk := none }.keyNwk = none) ∧
    ({ t1 2 0 [] with keyApp := none }.ksel = some 1 ∧ { t1 2 0 [] with keyApp := none }.keyAppV = 1 ∧
      { t1 2 0 [] with keyApp := none }.keyApp = none) ∧
    (Reg.inBuf ∈ alwaysRead .mhdr ∧ { plain 5 0 [0x40] with inLen := some 2 }.inBuf = some [(0, 0x40)] ∧
      { plain 5 0 [0x40] with inLen := some 2 }.inLen = some 2 ∧ 1 < 2 ∧ Memory.read [(0, 0x40)] 1 = none) := by
  decide +kernel

/-- The least finite `BUF_MAX`, and a length one above it. -/
theorem witness_LengthAboveBufMaxRefused :
    { Config.hw with bufMax := some 5 }.bufMax = some 5 ∧ 5 < 6 ∧ (plain 1 0 (hx 6 0)).inLen = some 6 ∧
    0 + (hx 6 0).length = 6 := ⟨rfl, by decide, by decide +kernel, by decide +kernel⟩

/-- Two buffers that differ from index 1 on. -/
theorem witness_BytesPastLengthNotRead :
    let s : State := { plain 5 0 [0x40, 0x01] with inLen := some 1 }
    s.inBuf = some [(0, 0x40), (1, 0x01)] ∧ s.inLen = some 1 ∧
    ∀ j, j < 1 → Memory.read [(0, 0x40), (1, 0xFF)] j = Memory.read [(0, 0x40), (1, 0x01)] j := by decide +kernel

theorem witness_AbsentKeyNotRead :
    { t1 2 0 [] with keyNwkV := 0 }.keyNwkV = 0 ∧ { t1 2 0 [] with keyAppV := 0 }.keyAppV = 0 := by decide +kernel

theorem t1_selected (op : BitVec 4) (dir : Bit) (bs : Bytes) : (t1 op dir bs).SelectedKey k1 := .inr ⟨rfl, rfl, rfl⟩

theorem t2_selected (op : BitVec 4) (dir : Bit) (bs : Bytes) : (t2 op dir bs).SelectedKey k2 := .inl ⟨rfl, rfl, rfl⟩

/-- A block under either key; a missing key of either kind; the lengths 15 and 17. -/
theorem witness_AesblkResult :
    ((t2 9 0 k1.toList).HasInput k1.toList ∧ (t2 9 0 k1.toList).SelectedKey k2) ∧
    ({ t2 9 0 [] with keyNwkV := 0 }.HasInput [] ∧ { t2 9 0 [] with keyNwkV := 0 }.SelectedKeyAbsent .network) ∧
    ({ t1 9 0 [] with keyAppV := 0 }.HasInput [] ∧ { t1 9 0 [] with keyAppV := 0 }.SelectedKeyAbsent .application) ∧
    ((t1 9 0 (hx 15 0)).HasInput (hx 15 0) ∧ (t1 9 0 (hx 15 0)).SelectedKey k1 ∧ (hx 15 0).length ≠ 16) ∧
    ((t1 9 0 (hx 17 0)).HasInput (hx 17 0) ∧ (t1 9 0 (hx 17 0)).SelectedKey k1 ∧ (hx 17 0).length ≠ 16) :=
  ⟨⟨by decide +kernel, t2_selected _ _ _⟩, ⟨by decide +kernel, .inl ⟨rfl, rfl, rfl⟩⟩,
    ⟨by decide +kernel, .inr ⟨rfl, rfl, rfl⟩⟩, ⟨by decide +kernel, t1_selected _ _ _, by decide +kernel⟩,
    ⟨by decide +kernel, t1_selected _ _ _, by decide +kernel⟩⟩

/-- The empty payload and one of 17 bytes; a missing key. -/
theorem witness_CipherResult :
    ((t1 2 0 []).HasInput [] ∧ (t1 2 0 []).SelectedKey k1 ∧ (t1 2 0 []).dir = some Direction.uplink.bit ∧
      (t1 2 0 []).addr = some #v[0xBE, 0xEF, 0x00, 0xB1] ∧ (t1 2 0 []).cnt = some #v[0, 0, 0, 0x0D] ∧
      (t1 2 0 []).be = some 1) ∧
    ((t2 2 1 (hx 17 0)).HasInput (hx 17 0) ∧ (t2 2 1 (hx 17 0)).SelectedKey k2 ∧
      (t2 2 1 (hx 17 0)).dir = some Direction.downlink.bit) ∧
    ({ t2 2 1 [] with keyNwkV := 0 }.HasInput [] ∧ { t2 2 1 [] with keyNwkV := 0 }.SelectedKeyAbsent .network ∧
      { t2 2 1 [] with keyNwkV := 0 }.dir = some Direction.downlink.bit ∧
      { t2 2 1 [] with keyNwkV := 0 }.addr.isSome = true ∧ { t2 2 1 [] with keyNwkV := 0 }.cnt.isSome = true ∧
      { t2 2 1 [] with keyNwkV := 0 }.be.isSome = true) :=
  ⟨⟨by decide +kernel, t1_selected _ _ _, rfl, rfl, rfl, rfl⟩, ⟨by decide +kernel, t2_selected _ _ _, rfl⟩,
    ⟨by decide +kernel, .inl ⟨rfl, rfl, rfl⟩, rfl, rfl, rfl, rfl⟩⟩

/-- The first byte, the last of a block, the first of the next. -/
theorem witness_FrmCipherBytes : 0 < (hx 17 0).length ∧ 15 < (hx 17 0).length ∧ 16 < (hx 17 0).length := by
  decide +kernel

/-- The shortest payload that has two such positions. -/
theorem witness_KeystreamPeriod :
    (List.replicate 4097 (0 : Byte))[0]? = some 0 ∧ (List.replicate 4097 (0 : Byte))[0 + 4096]? = some 0 :=
  ⟨by rw [List.getElem?_replicate]; rfl, by rw [List.getElem?_replicate]; rfl⟩

/-- T2. -/
theorem witness_CipherOperationSelfInverse :
    (t2 2 1 [0x79, 0x86]).HasInput [0x79, 0x86] ∧ (t2 2 1 [0x79, 0x86]).SelectedKey k2 ∧
    ∃ t, exec .cipher (t2 2 1 [0x79, 0x86]) = .next t :=
  ⟨by decide +kernel, t2_selected _ _ _, _, rfl⟩

/-- Every header byte of the list; the lengths 0 and 2. -/
theorem witness_MhdrResult :
    (∀ ft : BitVec 3, (plain 5 0 [ft ++ (7 : BitVec 3) ++ (1 : BitVec 2)]).HasInput [ft ++ (7 : BitVec 3) ++ (1 : BitVec 2)]) ∧
    ((plain 5 0 []).HasInput [] ∧ ([] : Bytes).length ≠ 1) ∧
    ((plain 5 0 [0x40, 0]).HasInput [0x40, 0] ∧ ([0x40, 0] : Bytes).length ≠ 1) :=
  ⟨fun _ => setInput_hasInput _ State.reset, by decide +kernel, by decide +kernel⟩

/-- Both directions; the lengths 0 and 2. -/
theorem witness_FctrlResult (b7 b6 b5 b4 : Bit) (len : BitVec 4) :
    (∀ d : Bit, (plain 6 d [b7 ++ b6 ++ b5 ++ b4 ++ len]).HasInput [b7 ++ b6 ++ b5 ++ b4 ++ len] ∧
      (plain 6 d [b7 ++ b6 ++ b5 ++ b4 ++ len]).dir = some d) ∧
    ((plain 6 0 []).HasInput [] ∧ ([] : Bytes).length ≠ 1) ∧
    ((plain 6 1 [0, 0]).HasInput [0, 0] ∧ ([0, 0] : Bytes).length ≠ 1) :=
  ⟨fun _ => ⟨setInput_hasInput _ State.reset, rfl⟩, by decide +kernel, by decide +kernel⟩

/-- V-F3 g, h and l: no tail; a conflict; inline commands cut short. -/
theorem witness_FhdrResult :
    ((plain 4 0 (dataBody 0xB1 0 0xEF 0xBE 0x0F 1 0 (hx 15 0x020202020202020202020202020202) [])).HasInput
        (dataBody 0xB1 0 0xEF 0xBE 0x0F 1 0 (hx 15 0x020202020202020202020202020202) []) ∧
      ((0x0F : Byte).extractLsb' 0 4).toNat = (hx 15 0x020202020202020202020202020202).length ∧
      (macparse Config.hw.cmdtab (hx 15 0x020202020202020202020202020202) .uplink).stop.isShort = false) ∧
    ((plain 4 0 (dataBody 0xB1 0 0xEF 0xBE 1 0x0D 0 [0x02] [0, 0xAA])).HasInput
        (dataBody 0xB1 0 0xEF 0xBE 1 0x0D 0 [0x02] [0, 0xAA]) ∧
      ((1 : Byte).extractLsb' 0 4).toNat = ([0x02] : Bytes).length ∧ tailClass [0x02] [0, 0xAA] = .conflict ∧
      (macparse Config.hw.cmdtab [0x02] .uplink).stop.isShort = false) ∧
    ((plain 4 1 (dataBody 0xB1 0 0xEF 0xBE 2 1 0 [0x03, 0x50] [])).HasInput
        (dataBody 0xB1 0 0xEF 0xBE 2 1 0 [0x03, 0x50] []) ∧
      ((2 : Byte).extractLsb' 0 4).toNat = ([0x03, 0x50] : Bytes).length ∧
      (macparse Config.hw.cmdtab [0x03, 0x50] .downlink).stop.isShort = true) := by decide +kernel

/-- Six bytes; and one byte fewer than `foptslen` asks for. -/
theorem witness_FhdrShortBody :
    ((plain 4 0 (hx 6 0)).HasInput (hx 6 0) ∧ (plain 4 0 (hx 6 0)).dir = some Direction.uplink.bit ∧
      (hx 6 0).length < 7) ∧
    ((plain 4 1 ([0xB1, 0, 0xEF, 0xBE, 5, 1, 0] ++ hx 4 0)).HasInput ([0xB1, 0, 0xEF, 0xBE, 5, 1, 0] ++ hx 4 0) ∧
      (plain 4 1 ([0xB1, 0, 0xEF, 0xBE, 5, 1, 0] ++ hx 4 0)).dir = some Direction.downlink.bit ∧
      (hx 4 0).length < ((5 : Byte).extractLsb' 0 4).toNat) := by decide +kernel

/-- An identifier without a row; a body one byte short; a body of the row's length. -/
theorem witness_MacparseFollowsWalk :
    defaultCmdTab 0x80 .uplink = none ∧
    (defaultCmdTab 0x02 .downlink = some rowLinkCheckAns ∧ ([0x14] : Bytes).length < rowLinkCheckAns.len) ∧
    (defaultCmdTab 0x07 .downlink = some rowNewChannelReq ∧ (hx 5 0).length = rowNewChannelReq.len) := by
  decide +kernel

/-- A stream for each stop. -/
theorem witness_MacparseConsumesStream :
    (macparse defaultCmdTab [0x02] .uplink).stop = .complete ∧
    (macparse defaultCmdTab [0x02, 0x80] .uplink).stop = .unrecognized 0x80 1 ∧
    (macparse defaultCmdTab [0x06, 0x02, 0x14] .downlink).stop = .shortBody 0x02 1 := by decide +kernel

/-- V-M19, V-M20 and V-M22. -/
theorem witness_MacparseResult :
    ((plain 3 0 []).HasInput [] ∧ (plain 3 0 []).dir = some Direction.uplink.bit ∧
      (macparse Config.hw.cmdtab [] .uplink).stop.isShort = false) ∧
    ((plain 3 0 [0x02, 0x80]).HasInput [0x02, 0x80] ∧
      (macparse Config.hw.cmdtab [0x02, 0x80] .uplink).stop.isShort = false) ∧
    ((plain 3 1 [0x02, 0x14]).HasInput [0x02, 0x14] ∧ (plain 3 1 [0x02, 0x14]).dir = some Direction.downlink.bit ∧
      (macparse Config.hw.cmdtab [0x02, 0x14] .downlink).stop.isShort = true) := by decide +kernel

/-- Eighteen bytes; 17 and 19. -/
theorem witness_JoinreqResult :
    (plain 7 0 [0, 1, 2, 3, 4, 5, 6, 7, 8, 9, 10, 11, 12, 13, 14, 15, 16, 17]).HasInput
      [0, 1, 2, 3, 4, 5, 6, 7, 8, 9, 10, 11, 12, 13, 14, 15, 16, 17] ∧
    ((plain 7 0 (hx 17 0)).HasInput (hx 17 0) ∧ (hx 17 0).length ≠ 18) ∧
    ((plain 7 0 (hx 19 0)).HasInput (hx 19 0) ∧ (hx 19 0).length ≠ 18) := by decide +kernel

/-- Both forms; the lengths 11, 13, 27 and 29. -/
theorem witness_JoinaccResult :
    (∀ l : Bytes, (plain 8 0 ([0, 1, 2, 3, 4, 5, 6, 7, 8, 9, 10, 11] ++ l)).HasInput
      ([0, 1, 2, 3, 4, 5, 6, 7, 8, 9, 10, 11] ++ l)) ∧ ([] : Bytes).length = 0 ∧ (hx 16 0).length = 16 ∧
    (∀ n ∈ [11, 13, 27, 29], (plain 8 0 (hx n 0)).HasInput (hx n 0) ∧ (hx n 0).length ≠ 12 ∧
      (hx n 0).length ≠ 28) :=
  ⟨fun _ => setInput_hasInput _ State.reset, rfl, by decide +kernel, by decide +kernel⟩

/-- The empty frame and one of four bytes. -/
theorem witness_TruncatedFrameResult :
    ((plain 1 0 []).HasInput [] ∧ ([] : Bytes).length < 5) ∧
    ((plain 1 0 (hx 4 0x40000000)).HasInput (hx 4 0x40000000) ∧ (hx 4 0x40000000).length < 5) := by decide +kernel

/-- A frame of five bytes, which is a fault (V-D2), and a longer one (V-D4). -/
theorem witness_SplitAlwaysReported :
    ((plain 1 0 (0x40 :: [] ++ hx 4 0)).HasInput (0x40 :: [] ++ hx 4 0) ∧ (hx 4 0).length = 4 ∧
      ∃ t, completedIn (exec .decode (plain 1 0 (0x40 :: [] ++ hx 4 0))) t) ∧
    ((plain 1 0 (0xE0 :: [1, 2] ++ hx 4 0)).HasInput (0xE0 :: [1, 2] ++ hx 4 0) ∧
      ∃ t, completedIn (exec .decode (plain 1 0 (0xE0 :: [1, 2] ++ hx 4 0))) t) :=
  ⟨⟨by decide +kernel, by decide +kernel, _, .inr ⟨_, rfl⟩⟩, ⟨by decide +kernel, _, .inl rfl⟩⟩

/-- Any frame can be put into `IN`: the input hypotheses of the frame statements can be met for every frame. -/
theorem witness_frame_input (F : Bytes) : (plain 1 0 F).HasInput F ∧ (keyed 1 0 F).HasInput F :=
  ⟨setInput_hasInput F State.reset, setInput_hasInput F State.reset⟩

/-- Bodies that decode, of every length that does; and the neighbouring lengths that do not. -/
theorem witness_JoinFrameResults :
    (joinreq (hx 18 0)).isSome = true ∧ (joinacc (hx 12 0)).isSome = true ∧ (joinacc (hx 28 0)).isSome = true ∧
    (hx 17 0).length ≠ 18 ∧ (hx 19 0).length ≠ 18 ∧
    (∀ n ∈ [11, 13, 27, 29], (hx n 0).length ≠ 12 ∧ (hx n 0).length ≠ 28) ∧ (hx 4 0).length = 4 := by decide +kernel

theorem witness_UnsupportedFrameResults :
    (hx 4 0).length = 4 ∧ (plain 1 0 (((6 : BitVec 3) ++ (0 : BitVec 3) ++ (3 : BitVec 2)) :: [] ++ hx 4 0)).HasInput
      (((6 : BitVec 3) ++ (0 : BitVec 3) ++ (3 : BitVec 2)) :: [] ++ hx 4 0) ∧
    (plain 1 0 (((7 : BitVec 3) ++ (0 : BitVec 3) ++ (0 : BitVec 2)) :: [1] ++ hx 4 0)).HasInput
      (((7 : BitVec 3) ++ (0 : BitVec 3) ++ (0 : BitVec 2)) :: [1] ++ hx 4 0) := by decide +kernel

/-- A frame of type `ft` with this body and tag zero, and no key. -/
def dataFrameState (ft : BitVec 3) (body : Bytes) : State :=
  plain 1 0 ((ft ++ (0 : BitVec 3) ++ (0 : BitVec 2)) :: body ++ hx 4 0)

/-- Each class without its key: absent, commands, application data, diagnostic, conflict; the shortest and the longest
inline region; and an inline region cut short. With `witness_frame_input` for every frame type. -/
theorem witness_DataFrameWithoutCipher :
    (∀ ft ∈ [(2 : BitVec 3), 3, 4, 5], (dataFrameState ft (dataBody 1 2 3 4 0 5 6 [] [])).HasInput
      ((ft ++ (0 : BitVec 3) ++ (0 : BitVec 2)) :: dataBody 1 2 3 4 0 5 6 [] [] ++ hx 4 0)) ∧
    (∀ ft ∈ [(2 : BitVec 3), 3, 4, 5], ∀ body, (dataFrameState ft body).keyNwkV = 0 ∧
      (dataFrameState ft body).keyAppV = 0) ∧
    tailClass [] [] = .absent ∧ tailClass [] [0] = .commands ∧ tailClass [] [1] = .appData ∧
    tailClass [] [224] = .diagnostic ∧ tailClass [0x02] [0] = .conflict ∧
    ((0x00 : Byte).extractLsb' 0 4).toNat = ([] : Bytes).length ∧
    ((0x1F : Byte).extractLsb' 0 4).toNat = (hx 15 0).length ∧
    (macparse Config.hw.cmdtab [] .uplink).stop.isShort = false ∧
    (macparse Config.hw.cmdtab [0x80] .downlink).stop.isShort = false ∧
    (macparse Config.hw.cmdtab [0x02] .downlink).stop.isShort = true ∧
    (macparse Config.hw.cmdtab [0x03] .uplink).stop.isShort = true :=
  ⟨by decide +kernel, fun _ _ _ => ⟨rfl, rfl⟩, by decide, by decide, by decide, by decide, by decide, by decide +kernel,
    by decide +kernel, by decide +kernel, by decide +kernel, by decide +kernel, by decide +kernel⟩

/-- The empty body, one of six bytes, and inline commands one byte short. -/
theorem witness_DataFrameShortBody :
    (∀ ft ∈ [(2 : BitVec 3), 3, 4, 5], (dataFrameState ft []).HasInput
      ((ft ++ (0 : BitVec 3) ++ (0 : BitVec 2)) :: [] ++ hx 4 0)) ∧ ([] : Bytes).length < 7 ∧ (hx 6 0).length < 7 ∧
    (hx 4 0).length = 4 ∧
    (∀ ft ∈ [(2 : BitVec 3), 3, 4, 5], (dataFrameState ft ([1, 2, 3, 4, 1, 5, 6] ++ [])).HasInput
      ((ft ++ (0 : BitVec 3) ++ (0 : BitVec 2)) :: ([1, 2, 3, 4, 1, 5, 6] ++ []) ++ hx 4 0)) ∧
    ([] : Bytes).length < ((1 : Byte).extractLsb' 0 4).toNat := by decide +kernel

/-- P1's frame: application data at port 1 with K1; the ports at the ends of the two ranges; an inline region cut
short. -/
theorem witness_DataFrameAppData :
    let frame := ((2 : BitVec 3) ++ (0 : BitVec 3) ++ (0 : BitVec 2)) ::
      dataBody 0xB1 0 0xEF 0xBE 0x83 0x0D 0 [0x02, 0x03, 0x07] (1 :: hx 2 0xCCBF) ++ hx 4 0xDEADBEEF
    (keyed 1 0 frame).HasInput frame ∧ (hx 4 0xDEADBEEF).length = 4 ∧
    ((0x83 : Byte).extractLsb' 0 4).toNat = ([0x02, 0x03, 0x07] : Bytes).length ∧ (1 : Byte) ≠ 0 ∧ (1 : Byte) ≠ 224 ∧
    (keyed 1 0 frame).keyAppV = 1 ∧ (keyed 1 0 frame).keyApp = some k1 ∧ (keyed 1 0 frame).be = some 1 ∧
    (macparse Config.hw.cmdtab [0x02, 0x03, 0x07] .uplink).stop.isShort = false ∧
    (macparse Config.hw.cmdtab [0x02, 0x03] .uplink).stop.isShort = true ∧ (223 : Byte) ≠ 224 ∧ (225 : Byte) ≠ 224 ∧
    (255 : Byte) ≠ 224 := by decide +kernel

/-- The plaintext of P2 and that of a frame whose body is one ciphered byte `02`: a complete walk and a cut one. -/
theorem witness_DataFrameBodyCommands :
    let frame := ((5 : BitVec 3) ++ (0 : BitVec 3) ++ (0 : BitVec 2)) ::
      dataBody 0xAD 0xBA 0 0 0x30 3 0 [] (0 :: hx 9 0x7B90774E8403F60B38) ++ hx 4 0x01020304
    (keyed 1 0 frame).HasInput frame ∧ (0x30 : Byte).extractLsb' 0 4 = 0 ∧ (keyed 1 0 frame).keyNwkV = 1 ∧
    (keyed 1 0 frame).keyNwk = some k2 ∧ (keyed 1 0 frame).be = some 1 ∧
    (macparse Config.hw.cmdtab (frmCipher Config.hw.aes128 k2 1 #v[0, 0, 0xBA, 0xAD] #v[0, 0, 0, 3] 1
      (hx 9 0x7B90774E8403F60B38)) .downlink).stop.isShort = false ∧
    (macparse Config.hw.cmdtab (frmCipher Config.hw.aes128 k2 1 #v[0, 0, 0xBA, 0xAD] #v[0, 0, 0, 3] 1
      [0x7B]) .downlink).stop.isShort = true := by decide +kernel

/-- `BE` unwritten, for either key; and a key without a value. -/
theorem witness_CipherInsideDecodeNeedsBeAndKey :
    (∀ F, { keyed 1 0 F with be := none }.HasInput F ∧ { keyed 1 0 F with be := none }.keyNwkV = 1 ∧
      { keyed 1 0 F with be := none }.keyAppV = 1 ∧ { keyed 1 0 F with be := none }.be = none) ∧
    (∀ F, { keyed 1 0 F with keyApp := none }.HasInput F ∧ { keyed 1 0 F with keyApp := none }.keyApp = none) ∧
    tailClass [] [0] = .commands ∧ tailClass [] [1] = .appData ∧
    ((0 : Byte).extractLsb' 0 4).toNat = ([] : Bytes).length :=
  ⟨fun F => ⟨setInput_hasInput F State.reset, rfl, rfl, rfl⟩, fun F => ⟨setInput_hasInput F State.reset, rfl⟩, by decide, by decide,
    by decide⟩

/-- Two frames that differ in the tag; and two tags alone, which are truncated frames. -/
theorem witness_TagNeverChecked :
    (hx 4 0).length = 4 ∧ (hx 4 0xDEADBEEF).length = 4 ∧ (plain 1 0 ([0xE0, 1] ++ hx 4 0)).HasInput ([0xE0, 1] ++ hx 4 0) ∧
    { plain 1 0 ([0xE0, 1] ++ hx 4 0) with inBuf := some (Memory.ofBytes ([0xE0, 1] ++ hx 4 0xDEADBEEF)) }.HasInput
      ([0xE0, 1] ++ hx 4 0xDEADBEEF) ∧
    (plain 1 0 ([] ++ hx 4 0)).HasInput ([] ++ hx 4 0) := by decide +kernel

theorem witness_BeChangesOnlyPlaintext :
    (keyed 1 0 (hx 15 0x60ADBA000000030000798601020304)).be = some 1 ∧
    ∃ t, completedIn (exec .decode (keyed 1 0 (hx 15 0x60ADBA000000030000798601020304))) t :=
  ⟨rfl, _, .inl rfl⟩

/-- A diagnostic frame (V-D8) and one without a port (V-D6). -/
theorem witness_DiagnosticNeverDecrypted :
    (dataOf (exec .decode (keyed 1 0 (hx 15 0x40B100EFBE000100E0AABB11223344)))).map (·.port) = some (some 224) ∧
    (dataOf (exec .decode (keyed 1 0 (hx 12 0x80B100EFBE00010011223344)))).map (·.port) = some none := by
  decide +kernel

theorem witness_ResultReadsRefusedWhileIdle : State.reset.status = .idle := rfl

/-- A write, and the lengths of the two bounded writes: any where `BUF_MAX` is unbounded, the last one where it is not. -/
theorem witness_HostWritesHoldAndFrame :
    (∃ t, hostWrite Config.hw (.be 1) (plain 5 0 []) = .next t) ∧
    (plain 5 0 [0x40]).Inv ∧ aboveMax Config.hw (0 + [(1 : Byte), 2].length) = false ∧
    aboveMax { Config.hw with bufMax := some 5 } (3 + [(1 : Byte), 2].length) = false ∧
    aboveMax { Config.hw with bufMax := some 5 } 5 = false :=
  ⟨⟨_, rfl⟩, plain_inv _ _ _, rfl, rfl, rfl⟩

end Sys2Proof.Tests
end

section
/-! Proofs, family 00_scope (spec/00_scope.md section 5): `BUF_MAX`, `ORCH_ORDER` and the default configuration. -/

namespace Sys2Proof.Machine

/-! ### `BUF_MAX` (R15) -/

theorem aboveMax_of_lt {cfg : Config} {m n : Nat} (hm : cfg.bufMax = some m) (hn : m < n) : aboveMax cfg n = true := by
  simp [aboveMax, hm, hn]

/-- Reading the input tests `IN_LEN` against `BUF_MAX` before it reads `IN`. -/
theorem withInput_of_aboveMax {cfg : Config} {s : State} {n : Nat} (hl : s.inLen = some n)
    (ha : aboveMax cfg n = true) (k : Bytes → Host.Outcome State Fault Refusal) :
    withInput cfg s k = .refused (.aboveBufMax n) := by
  simp [withInput, hl, ha]

/-- Each of the nine operations reads the input before anything else. -/
theorem operation_eq_withInput (cfg : Config) (s : State) :
    ∀ op ∈ [opDecode, opCipher, opMacparse, opFhdr, opMhdr, opFctrl, opJoinreq, opJoinacc, opAesblk],
      ∃ k, op cfg s = withInput cfg s k := by
  simp only [List.forall_mem_cons]
  exact ⟨⟨_, rfl⟩, ⟨_, rfl⟩, ⟨_, rfl⟩, ⟨_, rfl⟩, ⟨_, rfl⟩, ⟨_, rfl⟩, ⟨_, rfl⟩, ⟨_, rfl⟩, ⟨_, rfl⟩, by simp⟩

theorem hostWrite_inLen_of_aboveMax {cfg : Config} {n : Nat} (ha : aboveMax cfg n = true) (s : State) :
    hostWrite cfg (.inLen n) s = .refused (.aboveBufMax n) := by
  simp [hostWrite, ha]

theorem hostWrite_inBytes_of_aboveMax {cfg : Config} {off : Nat} {bs : Bytes}
    (ha : aboveMax cfg (off + bs.length) = true) (s : State) :
    hostWrite cfg (.inBytes off bs) s = .refused (.aboveBufMax (off + bs.length)) := by
  simp [hostWrite, ha]

/-- Settles O19: the nine operations begin with `withInput`, and it and both writes test the length against `BUF_MAX`. -/
theorem lengthAboveBufMaxRefused : Obligations.LengthAboveBufMaxRefused := by
  unfold Obligations.LengthAboveBufMaxRefused
  intro cfg s m n hm hn
  have ha : aboveMax cfg n = true := aboveMax_of_lt hm hn
  refine ⟨fun hl op hop => ?_, hostWrite_inLen_of_aboveMax ha s, ?_⟩
  · obtain ⟨k, hk⟩ := operation_eq_withInput cfg s op hop
    rw [hk, withInput_of_aboveMax hl ha]
  · rintro off bs rfl
    exact hostWrite_inBytes_of_aboveMax ha s

/-! ### `ORCH_ORDER` (R16) and `BE` (R124) -/

@[simp] theorem rev4_rev4 (q : Quad) : rev4 (rev4 q) = q := by
  ext i hi
  interval_cases i <;> rfl

/-- The two values of `BE` read an operand in opposite byte orders. -/
theorem ordered_rev4 (be : Bit) (q : Quad) : ordered be (rev4 q) = ordered (1 - be) q := by
  obtain rfl | rfl : be = 0 ∨ be = 1 := by revert be; decide
  · rfl
  · exact rev4_rev4 q

/-- Reversing both operands of the cipher is the same as the other value of `BE`. -/
theorem frmCipher_rev4 (aes : Block → Block → Block) (K : Block) (dir : Bit) (addr cnt : Quad) (be : Bit) (P : Bytes) :
    frmCipher aes K dir (rev4 addr) (rev4 cnt) be P = frmCipher aes K dir addr cnt (1 - be) P := by
  simp only [frmCipher, ordered_rev4]

/-- The host order of an operand is its wire order reversed (R236). -/
theorem orchOperand_host (cfg : Config) (v : BitVec 32) :
    orchOperand { cfg with orchOrder := .host } v = rev4 (orchOperand { cfg with orchOrder := .wire } v) := rfl

/-- Settles O49: host order reverses both operands of wire order, which the other value of `BE` undoes. -/
theorem orchOrderAndBePairUp : Obligations.OrchOrderAndBePairUp := by
  unfold Obligations.OrchOrderAndBePairUp
  intro cfg s be r K dir d
  cases K with
  | none => rfl
  | some K => simp only [frmPlainOf, orchOperand_host, frmCipher_rev4]

/-! ### The default configuration (R15, R157, R171, R180) -/

/-- The body bytes a primitive reads (R176), as a list. -/
def bytesRead : FieldPrim → List Nat
  | .u k _ _ => [k]
  | .s k _ _ => [k]
  | .ule k m => List.range' k m
  | .freq k => List.range' k 3

theorem mem_bytesRead {p : FieldPrim} {j : Nat} : j ∈ bytesRead p ↔ p.reads j := by
  cases p <;> simp [bytesRead, FieldPrim.reads]

/-- R171 as a computation: the bytes a row's fields read are those of its body. -/
theorem wellFormed_of_bytesRead {row : CmdRow} (hl : row.len ≤ 5)
    (hr : (row.fields.flatMap fun f => bytesRead f.2).toFinset = Finset.range row.len) : row.WellFormed where
  len := hl
  reads j := by simpa [mem_bytesRead] using Finset.ext_iff.mp hr j

/-- R171 for the rows R181 to R189. -/
theorem uplinkRow_wellFormed {n : Nat} {row : CmdRow} (h : uplinkRow n = some row) : row.WellFormed := by
  unfold uplinkRow at h
  split at h <;> cases h
  all_goals exact wellFormed_of_bytesRead (by decide) (by decide)

/-- R171 for the rows R190 to R198. -/
theorem downlinkRow_wellFormed {n : Nat} {row : CmdRow} (h : downlinkRow n = some row) : row.WellFormed := by
  unfold downlinkRow at h
  split at h <;> cases h
  all_goals exact wellFormed_of_bytesRead (by decide) (by decide)

theorem defaultCmdTab_wellFormed : CmdTab.WellFormed defaultCmdTab
  | _, .uplink, _, h => uplinkRow_wellFormed h
  | _, .downlink, _, h => downlinkRow_wellFormed h

theorem uplinkRow_isSome_iff (n : Nat) : (uplinkRow n).isSome = true ↔ 2 ≤ n ∧ n ≤ 10 := by
  constructor
  · unfold uplinkRow
    split <;> simp
  · rintro ⟨h2, h10⟩
    interval_cases n <;> rfl

theorem downlinkRow_isSome_iff (n : Nat) : (downlinkRow n).isSome = true ↔ 2 ≤ n ∧ n ≤ 10 := by
  constructor
  · unfold downlinkRow
    split <;> simp
  · rintro ⟨h2, h10⟩
    interval_cases n <;> rfl

theorem config_hw_wellFormed : Config.hw.WellFormed where
  bufMax _ h := nomatch h
  diagPort := by decide
  cmdtab := defaultCmdTab_wellFormed

/-- Settles O35: the table is well formed row by row, and the two halves have the same identifiers. -/
theorem defaultConfigurationWellFormed : Obligations.DefaultConfigurationWellFormed := by
  unfold Obligations.DefaultConfigurationWellFormed
  refine ⟨config_hw_wellFormed, fun id dir => ?_⟩
  cases dir with
  | uplink => exact uplinkRow_isSome_iff id.toNat
  | downlink => exact downlinkRow_isSome_iff id.toNat

end Sys2Proof.Machine
end

section
/-! Proofs, family 10_state (spec/10_state.md), first part: the registers as the host sees them. -/

namespace Sys2Proof.Machine

/-! ### The step (R21, R100) and its shared end (R47) -/

/-- Settles O4: `fetch` answers what `OP` decodes to, and `step` runs it. -/
theorem stepRunsDecodedOperation : Obligations.StepRunsDecodedOperation := by
  unfold Obligations.StepRunsDecodedOperation
  intro s c i hop hdec
  have hfetch : fetch s = .ok i := by simp [fetch, hop, hdec]
  simp [step, hfetch]

/-- A host's read of `OUT` after an operation: the output's bytes, and no more of them than `OUT_LEN` (R33). -/
theorem hostReadOut_complete (s : State) (w : Work) (out : Bytes) (i : Nat) :
    hostReadOut (complete s w out) i = if h : i < out.length then .ok (some out[i]) else .error (.outPastLength i) := by
  by_cases h : i < out.length
  · simp [hostReadOut, readResult, h, Nat.not_le.mpr h]
  · simp [hostReadOut, readResult, h, Nat.not_lt.mp h]

/-- Settles O9: the fields by the laws of `complete`, the reads of `OUT` by `hostReadOut_complete`. -/
theorem completeRewritesResultGroup : Obligations.CompleteRewritesResultGroup := by
  unfold Obligations.CompleteRewritesResultGroup
  intro s w out
  exact ⟨complete_request s w out, complete_status s w out, complete_err s w out, complete_report s w out,
    complete_outLen s w out, hostReadOut_complete s w out⟩

/-! ### Reset (R45) -/

/-- Settles O14: nothing is listed in `IN`, and `STATUS` is IDLE with every result register empty. -/
theorem resetMeetsInvariant : Obligations.ResetMeetsInvariant := by
  unfold Obligations.ResetMeetsInvariant
  exact ⟨reset_inBuf_wf, fun _ => ⟨rfl, rfl, rfl, rfl⟩, fun h => nomatch h⟩

/-- Settles O15: `State.reset` is the table of R45, field by field. -/
theorem resetValues : Obligations.ResetValues := by
  unfold Obligations.ResetValues
  decide

theorem readResult_idle {α : Type} {s : State} (h : s.status = .idle) (v : Option α) :
    readResult s v = .error .resultsWhileIdle := by
  simp [readResult, h]

/-- Settles O55: each of the four reads goes through `readResult`, which tests `STATUS` first. -/
theorem resultReadsRefusedWhileIdle : Obligations.ResultReadsRefusedWhileIdle := by
  unfold Obligations.ResultReadsRefusedWhileIdle
  intro s i h
  refine ⟨readResult_idle h _, readResult_idle h _, readResult_idle h _, ?_⟩
  simp only [hostReadOut, readResult_idle h]

/-! ### Host writes (R38) -/

/-- A host write leaves the result group as it was. -/
theorem hostWrite_results {cfg : Config} {w : HostWrite} {s t : State} (h : hostWrite cfg w s = .next t) :
    t.status = s.status ∧ t.err = s.err ∧ t.out = s.out ∧ t.outLen = s.outLen ∧ t.report = s.report := by
  cases w with
  | inBytes off bs =>
    simp only [hostWrite] at h
    split at h
    · cases h
    · cases h; exact ⟨rfl, rfl, rfl, rfl, rfl⟩
  | inLen n =>
    simp only [hostWrite] at h
    split at h
    · cases h
    · cases h; exact ⟨rfl, rfl, rfl, rfl, rfl⟩
  | _ => cases h; exact ⟨rfl, rfl, rfl, rfl, rfl⟩

/-- Settles O13: a write of `IN` keeps its canonical form, and no write reaches the result group. -/
theorem hostWriteKeepsInvariant : Obligations.HostWriteKeepsInvariant := by
  unfold Obligations.HostWriteKeepsInvariant
  intro cfg w s t hs h
  obtain ⟨hstatus, herr, hout, houtLen, hreport⟩ := hostWrite_results h
  refine ⟨hostWrite_inBuf_wf h hs.inBuf, ?_, ?_⟩
  · rw [hstatus, herr, hout, houtLen, hreport]; exact hs.idle
  · rw [hstatus, herr, hout, houtLen, hreport]; exact hs.done

/-- A write of several bytes leaves every index it does not cover. -/
theorem Memory.read_writeBytes_other {m : Memory} (hm : m.wf = true) {off j : Nat} {bs : Bytes}
    (hj : j < off ∨ off + bs.length ≤ j) : (m.writeBytes off bs).read j = m.read j := by
  induction bs generalizing m off with
  | nil => rfl
  | cons b bs ih =>
    simp only [List.length_cons] at hj
    rw [Memory.writeBytes, ih (Memory.wf_write hm off b) (by omega), Memory.read_write_other hm b (by omega)]

/-- The indices a write of several bytes covers read as those bytes. -/
theorem Memory.read_writeBytes_covered {m : Memory} (hm : m.wf = true) {off j : Nat} {bs : Bytes} (hl : off ≤ j)
    (hr : j < off + bs.length) : (m.writeBytes off bs).read j = some (byteAt bs (j - off)) := by
  induction bs generalizing m off with
  | nil => simp at hr; omega
  | cons b bs ih =>
    simp only [List.length_cons] at hr
    rw [Memory.writeBytes]
    have hm' := Memory.wf_write hm off b
    obtain rfl | hlt := Nat.eq_or_lt_of_le hl
    · rw [Memory.read_writeBytes_other hm' (.inl (by omega)), Memory.read_write_same]
      simp [byteAt]
    · rw [ih hm' hlt (by omega), show j - off = j - (off + 1) + 1 by omega]
      simp [byteAt]

/-- The buffer a host's write of `IN` starts from is in canonical form. -/
theorem State.Inv.wf_getD {s : State} (hs : s.Inv) : Memory.wf (s.inBuf.getD []) = true := by
  cases h : s.inBuf with
  | none => rfl
  | some m => exact hs.inBuf m h

theorem hostReadIn_eq_getD (s : State) (j : Nat) : hostReadIn s j = (s.inBuf.getD []).read j := by
  unfold hostReadIn
  cases s.inBuf <;> rfl

/-- The write of bytes of `IN`: what it covers, what it leaves, and that it writes no other register (log 17). -/
theorem hostWrite_inBytes {cfg : Config} {s : State} {off : Nat} {bs : Bytes} (hs : s.Inv)
    (ha : aboveMax cfg (off + bs.length) = false) :
    ∃ t, hostWrite cfg (.inBytes off bs) s = .next t ∧
      (∀ j, off ≤ j → j < off + bs.length → hostReadIn t j = some (byteAt bs (j - off))) ∧
      (∀ j, j < off ∨ off + bs.length ≤ j → hostReadIn t j = hostReadIn s j) ∧
      { t with inBuf := s.inBuf } = s := by
  refine ⟨{ s with inBuf := some ((s.inBuf.getD []).writeBytes off bs) }, by simp [hostWrite, ha], ?_, ?_, rfl⟩
  · intro j hl hr
    exact Memory.read_writeBytes_covered hs.wf_getD hl hr
  · intro j hj
    rw [hostReadIn_eq_getD s]
    exact Memory.read_writeBytes_other hs.wf_getD hj

theorem hostWrite_inLen {cfg : Config} {n : Nat} (ha : aboveMax cfg n = false) (s : State) :
    hostWrite cfg (.inLen n) s = .next { s with inLen := some n } := by
  simp [hostWrite, ha]

/-- Settles O56: the result group by `hostWrite_results`, the bytes of `IN` by `hostWrite_inBytes`; every other write
sets its one field. -/
theorem hostWritesHoldAndFrame : Obligations.HostWritesHoldAndFrame := by
  unfold Obligations.HostWritesHoldAndFrame
  refine ⟨fun _ _ _ _ h => hostWrite_results h, fun _ _ _ _ hs ha => hostWrite_inBytes hs ha,
    fun _ s _ ha => ⟨_, hostWrite_inLen ha s, rfl, rfl⟩, ?_⟩
  repeat' apply And.intro
  all_goals exact fun _ _ _ => ⟨_, rfl, rfl, rfl⟩

end Sys2Proof.Machine
end

section
/-! Proofs, family 10_state, second part: the results that the operations work out are coherent (`Report.Coherent`), each
part of a report from the function that fills it. -/

namespace Sys2Proof.Machine

/-! ### Coherent results -/

/-- The error and report worked out are coherent (`Report.Coherent`). -/
def Work.Coherent (w : Work) : Prop := w.report.Coherent w.err

/-- Nothing is recorded yet, and no part of the report that coherence speaks of. -/
structure Work.Fresh (w : Work) : Prop where
  err    : w.err = .ok
  data   : w.report.data = none
  stream : w.report.stream = none

theorem Work.Fresh.coherent {w : Work} (h : w.Fresh) : w.Coherent where
  noHexError he := by rw [h.err] at he; cases he
  unsupported t he := by rw [h.err] at he; cases he
  data d hd := by rw [h.data] at hd; cases hd
  stream c hc := by rw [h.stream] at hc; cases hc

/-- Recording an error keeps coherence, but for the two kinds coherence speaks of (R262, R264). -/
theorem Work.Coherent.note {w : Work} (h : w.Coherent) {e : Err} (hx : e ≠ .malformedHexInput)
    (hu : ∀ t, e ≠ .unsupportedFrameType t) : (w.note e).Coherent := by
  by_cases hw : w.err = .ok
  · rw [note_of_ok hw]
    exact ⟨hx, fun t ht => absurd ht (hu t), h.data, h.stream⟩
  · rwa [note_of_recorded hw]

theorem Work.Coherent.noteStop {w : Work} (h : w.Coherent) (stop : StreamStop) : (w.noteStop stop).Coherent := by
  cases stop with
  | complete => exact h
  | unrecognized id pos => exact h.note (by simp) (by simp)
  | shortBody id pos => exact h.note (by simp) (by simp)

theorem Work.Coherent.setData {w : Work} (h : w.Coherent) {dir : Direction} {d : DataReport}
    (hdir : w.report.direction = some dir) (hd : d.Coherent dir) : (w.setData d).Coherent where
  noHexError := h.noHexError
  unsupported := h.unsupported
  data d' hd' := by cases hd'; exact ⟨dir, hdir, hd⟩
  stream := h.stream

/-- UnsupportedFrameType is coherent under a header byte of that type, whose direction is none (R264, R144). -/
theorem Work.Fresh.note_unsupported {w : Work} (h : w.Fresh) {t : FrameType} (ht : t = .reserved ∨ t = .proprietary)
    {m : Mhdr} (hm : w.report.mhdr = some m) (hft : m.ftype = t) (hdir : w.report.direction = none) :
    (w.note (.unsupportedFrameType t)).Coherent := by
  rw [note_of_ok h.err]
  refine ⟨by simp, ?_, h.coherent.data, h.coherent.stream⟩
  rintro _ ⟨⟩
  exact ⟨ht, hdir, m, hm, hft⟩

/-! ### Command streams (R172 to R175) -/

theorem CmdStream.consumed_cons (k : Cmd) (ks : List Cmd) (stop stop' : StreamStop) :
    CmdStream.consumed ⟨k :: ks, stop⟩ = 1 + k.body.length + CmdStream.consumed ⟨ks, stop'⟩ := by
  simp [CmdStream.consumed]

/-- `CmdStream.Coherent` for a walk of any table that begins at a cursor: a stop's position counts from there. -/
structure CmdStream.CoherentFrom (tab : CmdTab) (dir : Direction) (start : Nat) (c : CmdStream) : Prop where
  rows : ∀ k ∈ c.cmds, ∃ row, tab k.id dir = some row ∧ k = cmdOf row k.id dir k.body ∧ k.body.length = row.len
  unrecognized : ∀ id pos, c.stop = .unrecognized id pos → tab id dir = none ∧ pos = start + c.consumed
  shortBody : ∀ id pos, c.stop = .shortBody id pos → (tab id dir).isSome ∧ pos = start + c.consumed

/-- A command of the table in front of a coherent walk. -/
theorem CmdStream.CoherentFrom.cons {tab : CmdTab} {dir : Direction} {pos : Nat} {row : CmdRow} {id : Byte}
    {body : Bytes} {c : CmdStream} (hrow : tab id dir = some row) (hlen : body.length = row.len)
    (h : c.CoherentFrom tab dir (pos + 1 + row.len)) :
    CmdStream.CoherentFrom tab dir pos ⟨cmdOf row id dir body :: c.cmds, c.stop⟩ := by
  have hcons : CmdStream.consumed ⟨cmdOf row id dir body :: c.cmds, c.stop⟩ = 1 + row.len + c.consumed := by
    rw [CmdStream.consumed_cons _ _ _ c.stop, ← hlen]
    rfl
  refine ⟨List.forall_mem_cons.mpr ⟨⟨row, hrow, rfl, hlen⟩, h.rows⟩, fun id' p hs => ?_, fun id' p hs => ?_⟩
  · obtain ⟨hnone, hpos⟩ := h.unrecognized id' p hs
    exact ⟨hnone, by omega⟩
  · obtain ⟨hsome, hpos⟩ := h.shortBody id' p hs
    exact ⟨hsome, by omega⟩

theorem walk_coherentFrom (tab : CmdTab) (dir : Direction) (n pos : Nat) (rest : Bytes) :
    (walk tab dir n pos rest).CoherentFrom tab dir pos := by
  induction n generalizing pos rest with
  | zero => exact ⟨by simp [walk], by simp [walk], by simp [walk]⟩
  | succ n ih =>
    cases rest with
    | nil => exact ⟨by simp, by simp, by simp⟩
    | cons id rest =>
      rw [walk]
      cases hrow : tab id dir with
      | none => exact ⟨by simp, by rintro _ _ ⟨⟩; exact ⟨hrow, rfl⟩, by simp⟩
      | some row =>
        dsimp only
        split
        · exact ⟨by simp, by simp, by rintro _ _ ⟨⟩; exact ⟨by simp [hrow], rfl⟩⟩
        · exact (ih _ _).cons hrow (by simp; omega)

theorem macparse_coherent (s : Bytes) (dir : Direction) : (macparse defaultCmdTab s dir).Coherent dir := by
  have h := walk_coherentFrom defaultCmdTab dir s.length 0 s
  exact ⟨h.rows, by simpa [macparse] using h.unrecognized, by simpa [macparse] using h.shortBody⟩

/-! ### The frame header (R150 to R158) -/

/-- A data part before the cipher: coherent, no body commands yet, and a port where the class calls for a key. -/
structure DataReport.Undeciphered (dir : Direction) (d : DataReport) : Prop where
  coherent : d.Coherent dir
  noCmds   : d.frmCmds = none
  commands : d.frmClass = some .commands → d.port = some 0
  appData  : d.frmClass = some .appData → d.port.isSome

/-- The fixed part with what FHDR adds to it; the low half of `fcnt32` is `fcnt16` (R97). -/
theorem fixedPart_undeciphered (body : Bytes) (dir : Direction) (hi : BitVec 16) {fopts : Option CmdStream}
    {port : Option Byte} {frm : Option Bytes} {cls : Option FrmClass}
    (hfopts : ∀ c, fopts = some c → c.Coherent dir) (hfrm : port.isSome = frm.isSome)
    (hdiag : port = some 224 → cls = some .diagnostic) (hconf : cls = some .conflict → port = some 0)
    (hcmds : cls = some .commands → port = some 0) (happ : cls = some .appData → port.isSome) :
    DataReport.Undeciphered dir
      { fixedPart body dir hi with fopts := fopts, port := port, frm := frm, frmClass := cls } where
  coherent :=
    { portFrm := hfrm
      plainLength := fun _ h => nomatch h
      cmds := fun _ h => nomatch h
      diagnostic := fun h => ⟨hdiag h, rfl⟩
      conflict := fun h => ⟨hconf h, rfl⟩
      counter := by
        rintro _ ⟨⟩
        exact congrArg some BitVec.extractLsb'_append_eq_right.symm
      inlineCmds := hfopts }
  noCmds := rfl
  commands := hcmds
  appData := happ

/-- The data part without a port: after the inline commands, or before them when the body is cut short (R160). -/
theorem fixedPart_undeciphered_of_no_port (body : Bytes) (dir : Direction) (hi : BitVec 16) {fopts : Option CmdStream}
    (hfopts : ∀ c, fopts = some c → c.Coherent dir) {cls : Option FrmClass} (hcls : cls = none ∨ cls = some .absent) :
    DataReport.Undeciphered dir { fixedPart body dir hi with fopts := fopts, frmClass := cls } := by
  obtain rfl | rfl := hcls
  all_goals exact fixedPart_undeciphered body dir hi (port := none) (frm := none) hfopts rfl nofun nofun nofun nofun

/-- What FHDR works out for a direction. -/
structure Work.Headed (dir : Direction) (w : Work) : Prop where
  coherent  : w.Coherent
  direction : w.report.direction = some dir
  data      : ∀ d, w.report.data = some d → d.Undeciphered dir

theorem Work.Fresh.headed {w : Work} (h : w.Fresh) (dir : Direction) : (w.setDirection (some dir)).Headed dir where
  coherent := Work.Fresh.coherent ⟨h.err, h.data, h.stream⟩
  direction := rfl
  data d hd := by simp [h.data] at hd

theorem Work.Headed.setData {dir : Direction} {w : Work} (h : w.Headed dir) {d : DataReport}
    (hd : d.Undeciphered dir) : (w.setData d).Headed dir where
  coherent := h.coherent.setData h.direction hd.coherent
  direction := h.direction
  data d' hd' := by cases hd'; exact hd

theorem Work.Headed.note {dir : Direction} {w : Work} (h : w.Headed dir) {e : Err} (hx : e ≠ .malformedHexInput)
    (hu : ∀ t, e ≠ .unsupportedFrameType t) : (w.note e).Headed dir where
  coherent := h.coherent.note hx hu
  direction := by simpa using h.direction
  data := by simpa using h.data

theorem Work.Headed.noteStop {dir : Direction} {w : Work} (h : w.Headed dir) (stop : StreamStop) :
    (w.noteStop stop).Headed dir where
  coherent := h.coherent.noteStop stop
  direction := by simpa using h.direction
  data := by simpa using h.data

theorem portClass_diagnostic (diagPort : Byte) : portClass diagPort diagPort = .diagnostic := if_pos rfl

theorem portClass_eq_commands {diagPort port : Byte} (h : portClass diagPort port = .commands) : port = 0 := by
  unfold portClass at h
  split at h
  · cases h
  · split at h
    · assumption
    · cases h

theorem portClass_ne_conflict (diagPort port : Byte) : portClass diagPort port ≠ .conflict := by
  unfold portClass
  split
  · simp
  · split <;> simp

/-- Port and body (R154 to R158), by its three ends. -/
theorem portAndBody_headed {dir : Direction} {w : Work} (h : w.Headed dir) (body : Bytes) (hi : BitVec 16) (L : Nat)
    {c : CmdStream} (hc : c.Coherent dir) :
    (portAndBody Config.hw body L { fixedPart body dir hi with fopts := some c } w).work.Headed dir := by
  have hfopts : ∀ c', some c = some c' → c'.Coherent dir := fun _ h => Option.some.inj h ▸ hc
  unfold portAndBody
  split
  · exact h.setData (fixedPart_undeciphered_of_no_port body dir hi hfopts (.inr rfl))
  · dsimp only
    split
    · next hconf =>
      exact (h.setData (fixedPart_undeciphered body dir hi hfopts rfl (by simp [hconf.1]) (by simp [hconf.1]) (by simp)
        (by simp))).note (by simp) (by simp)
    · refine h.setData (fixedPart_undeciphered body dir hi hfopts rfl ?_ ?_ ?_ (by simp))
      · intro hp
        rw [Option.some.inj hp]
        exact congrArg some (portClass_diagnostic 224)
      · intro hcls
        exact absurd (Option.some.inj hcls) (portClass_ne_conflict _ _)
      · intro hcls
        exact congrArg some (portClass_eq_commands (Option.some.inj hcls))

/-- FHDR (R150), by its two short bodies (R160) and `portAndBody`. -/
theorem fhdr_headed {w : Work} (h : w.Fresh) (body : Bytes) (dir : Direction) (hi : BitVec 16) :
    (fhdr Config.hw body dir hi w).work.Headed dir := by
  unfold fhdr
  dsimp only
  split
  · exact (h.headed dir).note (by simp) (by simp)
  · split
    · exact ((h.headed dir).setData (fixedPart_undeciphered_of_no_port body dir hi (fopts := none) nofun
        (.inl rfl))).note (by simp) (by simp)
    · have hc := macparse_coherent (slice body 7 (7 + bits (byteAt body 4) 3 0)) dir
      have hd := fixedPart_undeciphered_of_no_port body dir hi (fun _ h => Option.some.inj h ▸ hc) (.inl rfl)
      exact portAndBody_headed (((h.headed dir).setData hd).noteStop _) body hi _ hc

/-! ### The cipher inside DECODE (R234 to R239) -/

theorem xorChunks_length (aes : Block → Block → Block) (K : Block) (dir : Bit) (a c : Quad) {n : Nat} {p : Bytes}
    (i : Nat) (hp : p.length ≤ 16 * n) : (xorChunks aes K dir a c n i p).length = p.length := by
  induction n generalizing i p with
  | zero => simp [xorChunks]; omega
  | succ n ih =>
    rw [xorChunks, List.length_append, ih _ (by simp; omega)]
    simp [xorBytes]
    omega

/-- The transform keeps the length (R132). -/
theorem frmCipher_length (aes : Block → Block → Block) (K : Block) (dir : Bit) (addr cnt : Quad) (be : Bit)
    (P : Bytes) : (frmCipher aes K dir addr cnt be P).length = P.length :=
  xorChunks_length aes K dir _ _ 1 (by omega)

theorem frmPlainOf_length {cfg : Config} {s : State} {reg : Reg} {key : Option Block} {dir : Direction}
    {d : DataReport} {plain : Bytes} (h : frmPlainOf cfg s reg key dir d = .ok plain) :
    plain.length = (d.frm.getD []).length := by
  unfold frmPlainOf at h
  split at h <;> cases h
  exact frmCipher_length ..

/-- A plaintext may be added where the class calls for a key, and the walk of it at port 0. -/
theorem DataReport.Undeciphered.withPlain {dir : Direction} {d : DataReport} (h : d.Undeciphered dir)
    (hcls : d.frmClass = some .commands ∨ d.frmClass = some .appData) {plain : Bytes}
    (hlen : plain.length = (d.frm.getD []).length) {cmds : Option CmdStream}
    (hcmds : ∀ c, cmds = some c → d.port = some 0 ∧ c = macparse defaultCmdTab plain dir) :
    ({ d with frmPlain := some plain, frmCmds := cmds } : DataReport).Coherent dir where
  portFrm := h.coherent.portFrm
  plainLength := by
    rintro _ ⟨⟩
    have hport : d.port.isSome := by
      rcases hcls with hc | ha
      · simp [h.commands hc]
      · exact h.appData ha
    obtain ⟨frm, hfrm⟩ := Option.isSome_iff_exists.mp (h.coherent.portFrm ▸ hport)
    exact ⟨frm, hfrm, by simpa [hfrm] using hlen⟩
  cmds c hc := ⟨(hcmds c hc).1, plain, rfl, (hcmds c hc).2⟩
  diagnostic hp := by
    have := (h.coherent.diagnostic hp).1
    simp [this] at hcls
  conflict hc := by
    change d.frmClass = some .conflict at hc
    simp [hc] at hcls
  counter := h.coherent.counter
  inlineCmds := h.coherent.inlineCmds

theorem commandsStep_coherent {s : State} {dir : Direction} {d : DataReport} {w w' : Work} (hw : w.Headed dir)
    (hd : d.Undeciphered dir) (hcls : d.frmClass = some .commands)
    (h : commandsStep Config.hw s dir d w = .ok w') : w'.Coherent := by
  unfold commandsStep at h
  split at h
  · cases hp : frmPlainOf Config.hw s .keyNwk s.keyNwk dir d with
    | error r => simp [hp] at h
    | ok plain =>
      simp only [hp, Except.ok.injEq] at h
      subst h
      refine (hw.coherent.setData hw.direction (hd.withPlain (.inl hcls) (frmPlainOf_length hp) ?_)).noteStop _
      rintro _ ⟨⟩
      exact ⟨hd.commands hcls, rfl⟩
  · cases h; exact hw.coherent

theorem appDataStep_coherent {s : State} {dir : Direction} {d : DataReport} {w w' : Work} (hw : w.Headed dir)
    (hd : d.Undeciphered dir) (hcls : d.frmClass = some .appData)
    (h : appDataStep Config.hw s dir d w = .ok w') : w'.Coherent := by
  unfold appDataStep at h
  split at h
  · cases hp : frmPlainOf Config.hw s .keyApp s.keyApp dir d with
    | error r => simp [hp] at h
    | ok plain =>
      simp only [hp, Except.ok.injEq] at h
      subst h
      exact hw.coherent.setData hw.direction
        (hd.withPlain (.inr hcls) (frmPlainOf_length hp) (by simp [hd.noCmds]))
  · cases h; exact hw.coherent

theorem payloadStep_coherent {s : State} {dir : Direction} {w w' : Work} (hw : w.Headed dir)
    (h : payloadStep Config.hw s dir w = .ok w') : w'.Coherent := by
  unfold payloadStep at h
  split at h
  · cases h; exact hw.coherent
  · next d hd =>
    split at h
    · next hcls => exact commandsStep_coherent hw (hw.data d hd) hcls h
    · next hcls => exact appDataStep_coherent hw (hw.data d hd) hcls h
    all_goals cases h; exact hw.coherent

theorem dataFrame_coherent {s : State} {dir : Direction} {body : Bytes} {w w' : Work} (hw : w.Fresh)
    (h : dataFrame Config.hw s dir body w = .ok w') : w'.Coherent := by
  have hf := fhdr_headed hw body dir s.fcntHi
  unfold dataFrame at h
  split at h
  · next he => cases h; rw [he] at hf; exact hf.coherent
  · next hg => rw [hg] at hf; exact payloadStep_coherent hf h

/-! ### Frame types (R223 to R233) -/

theorem joinreqInto_coherent {w : Work} (h : w.Fresh) (body : Bytes) : (joinreqInto body w).work.Coherent := by
  unfold joinreqInto
  split
  · exact Work.Fresh.coherent ⟨h.err, h.data, h.stream⟩
  · exact h.coherent.note (by simp) (by simp)

theorem joinaccInto_coherent {w : Work} (h : w.Fresh) (body : Bytes) : (joinaccInto body w).work.Coherent := by
  unfold joinaccInto
  split
  · exact Work.Fresh.coherent ⟨h.err, h.data, h.stream⟩
  · exact h.coherent.note (by simp) (by simp)

/-- The branch of every frame type, from a report that holds the header byte and its direction. -/
theorem branch_coherent {s : State} {m : Mhdr} {body : Bytes} {w w' : Work} (hw : w.Fresh)
    (hm : w.report.mhdr = some m) (hdir : w.report.direction = direction m.ftype)
    (h : branch Config.hw s m.ftype body w = .ok w') : w'.Coherent := by
  cases ht : m.ftype <;> rw [ht] at h hdir
  case joinRequest => cases h; exact joinreqInto_coherent hw body
  case joinAccept => cases h; exact joinaccInto_coherent hw body
  case reserved => cases h; exact hw.note_unsupported (.inl rfl) hm ht hdir
  case proprietary => cases h; exact hw.note_unsupported (.inr rfl) hm ht hdir
  all_goals exact dataFrame_coherent hw h

end Sys2Proof.Machine
end

section
/-! Proofs, family 10_state, third part: the inversion of `exec`. From two states with the same operands an instruction
refuses alike, or delivers one coherent result in both. The frame (O8), the independence of earlier results (O10), of
bytes past `IN_LEN` (O20) and of absent keys (O21), and the invariant (O12) are read off from that. -/

namespace Sys2Proof.Machine

/-! ### States with the same operands (R39, R44) -/

/-- The operands read the same in both states: `IN` below `IN_LEN` (R22), a key where its valid bit is set (R23, R24),
and every other request register that an operation reads. -/
structure SameOperands (s s' : State) : Prop where
  inLen   : s'.inLen = s.inLen
  input   : ∀ n, s.inLen = some n →
    (s'.inBuf.bind fun m => m.readBytes 0 n) = s.inBuf.bind fun m => m.readBytes 0 n
  keyNwkV : s'.keyNwkV = s.keyNwkV
  keyNwk  : s.keyNwkV ≠ 0 → s'.keyNwk = s.keyNwk
  keyAppV : s'.keyAppV = s.keyAppV
  keyApp  : s.keyAppV ≠ 0 → s'.keyApp = s.keyApp
  fcntHi  : s'.fcntHi = s.fcntHi
  be      : s'.be = s.be
  dir     : s'.dir = s.dir
  ksel    : s'.ksel = s.ksel
  addr    : s'.addr = s.addr
  cnt     : s'.cnt = s.cnt

theorem SameOperands.refl (s : State) : SameOperands s s :=
  ⟨rfl, fun _ _ => rfl, rfl, fun _ => rfl, rfl, fun _ => rfl, rfl, rfl, rfl, rfl, rfl, rfl⟩

theorem SameOperands.of_request_eq {s s' : State} (h : s.request = s'.request) : SameOperands s s' := by
  simp only [State.request, Request.mk.injEq] at h
  obtain ⟨-, hinBuf, hinLen, hkeyNwk, hkeyNwkV, hkeyApp, hkeyAppV, hfcntHi, hbe, hdir, hksel, haddr, hcnt⟩ := h
  exact ⟨hinLen.symm, fun _ _ => by rw [hinBuf], hkeyNwkV.symm, fun _ => hkeyNwk.symm, hkeyAppV.symm,
    fun _ => hkeyApp.symm, hfcntHi.symm, hbe.symm, hdir.symm, hksel.symm, haddr.symm, hcnt.symm⟩

/-- Buffers that read the same below a length give the same bytes below it. -/
theorem Memory.readBytes_congr {m m' : Memory} {off n : Nat} (h : ∀ j < n, m'.read (off + j) = m.read (off + j)) :
    m'.readBytes off n = m.readBytes off n := by
  apply Option.ext
  intro bs
  simp only [Memory.readBytes_eq_some]
  refine and_congr_right fun _ => forall₂_congr fun j hj => ?_
  rw [h j hj]

theorem sameOperands_inBuf {s : State} {m m' : Memory} {n : Nat} (hm : s.inBuf = some m) (hn : s.inLen = some n)
    (h : ∀ j, j < n → m'.read j = m.read j) : SameOperands s { s with inBuf := some m' } :=
  { SameOperands.refl s with
    input := by
      intro n' hn'
      obtain rfl : n = n' := Option.some.inj (hn.symm.trans hn')
      simp only [hm, Option.bind_some]
      exact Memory.readBytes_congr fun j hj => by simpa using h j hj }

theorem sameOperands_keyNwk {s : State} (h : s.keyNwkV = 0) (k : Option Block) :
    SameOperands s { s with keyNwk := k } :=
  { SameOperands.refl s with keyNwk := fun hv => absurd h hv }

theorem sameOperands_keyApp {s : State} (h : s.keyAppV = 0) (k : Option Block) :
    SameOperands s { s with keyApp := k } :=
  { SameOperands.refl s with keyApp := fun hv => absurd h hv }

/-! ### Outcomes that are alike -/

/-- The outcomes of one operation from two states: refused alike, or one coherent result delivered in both. -/
inductive Alike (s s' : State) : Host.Outcome State Fault Refusal → Host.Outcome State Fault Refusal → Prop where
  | refused (r : Refusal) : Alike s s' (.refused r) (.refused r)
  | delivered {w : Work} (hw : w.Coherent) (out : Bytes) : Alike s s' (deliver s w out) (deliver s' w out)

/-- A change of state that turns every completion of the first state into that of the second turns the one outcome
into the other. -/
theorem Alike.eq_mapCompleted {s s' : State} {o o' : Host.Outcome State Fault Refusal} (h : Alike s s' o o')
    {f : State → State} (hf : ∀ w out, f (complete s w out) = complete s' w out) : o' = mapCompleted f o := by
  cases h with
  | refused r => rfl
  | @delivered w _ out =>
    by_cases he : ∃ p, w.err = .malformedLength p
    · obtain ⟨p, hp⟩ := he
      rw [deliver_fault hp, deliver_fault hp, mapCompleted, hf]
    · have hn : ∀ p, w.err ≠ .malformedLength p := not_exists.mp he
      rw [deliver_next hn, deliver_next hn, mapCompleted, hf]

theorem Alike.eq_of_request_eq {s s' : State} {o o' : Host.Outcome State Fault Refusal} (h : Alike s s' o o')
    (hs : s.request = s'.request) : o = o' := by
  cases h with
  | refused r => rfl
  | delivered _ out => exact deliver_congr hs _ out

theorem completedIn_deliver {s t : State} {w : Work} {out : Bytes} (h : completedIn (deliver s w out) t) :
    t = complete s w out := by
  rcases h with hn | ⟨p, hf⟩
  · exact (deliver_eq_next hn).1
  · obtain ⟨_, -, he⟩ := deliver_eq_fault hf
    cases he
    rfl

/-- What an outcome that is alike to another completed in. -/
theorem Alike.completedIn {s s' t : State} {o o' : Host.Outcome State Fault Refusal} (h : Alike s s' o o')
    (ht : completedIn o t) : ∃ w out, w.Coherent ∧ t = complete s w out := by
  cases h with
  | refused r => rcases ht with hn | ⟨_, hf⟩ <;> contradiction
  | @delivered w hw out => exact ⟨w, out, hw, completedIn_deliver ht⟩

/-! ### Reading operands alike -/

section

variable {s s' : State}

theorem Alike.need {α : Type} {r : Reg} {v v' : Option α} {k k' : α → Host.Outcome State Fault Refusal} (hv : v' = v)
    (hk : ∀ a, Alike s s' (k a) (k' a)) : Alike s s' (need r v k) (need r v' k') := by
  subst hv
  cases v' with
  | none => exact .refused _
  | some a => exact hk a

/-- `withInput` as one read of `IN`: it refuses alike where `IN` and where one of its bytes holds no value. -/
theorem withInput_eq (cfg : Config) (s : State) (k : Bytes → Host.Outcome State Fault Refusal) :
    withInput cfg s k = Machine.need .inLen s.inLen fun n =>
      if aboveMax cfg n then .refused (.aboveBufMax n)
      else Machine.need .inBuf (s.inBuf.bind fun m => m.readBytes 0 n) k := by
  unfold withInput
  cases s.inBuf <;> rfl

theorem SameOperands.withInput (h : SameOperands s s') {cfg : Config}
    {k k' : Bytes → Host.Outcome State Fault Refusal} (hk : ∀ bs, Alike s s' (k bs) (k' bs)) :
    Alike s s' (withInput cfg s k) (withInput cfg s' k') := by
  rw [withInput_eq, withInput_eq, h.inLen]
  cases hn : s.inLen with
  | none => exact .refused _
  | some n =>
    simp only [need_some]
    split
    · exact .refused _
    · exact .need (h.input n hn) hk

theorem SameOperands.withDir (h : SameOperands s s') {k k' : Direction → Host.Outcome State Fault Refusal}
    (hk : ∀ d, Alike s s' (k d) (k' d)) : Alike s s' (withDir s k) (withDir s' k') :=
  .need h.dir fun d => hk (Direction.ofBit d)

theorem SameOperands.selectKey (h : SameOperands s s') (ksel : Bit) :
    (selectKey s ksel).valid = (selectKey s' ksel).valid ∧ (selectKey s ksel).kind = (selectKey s' ksel).kind ∧
    (selectKey s ksel).reg = (selectKey s' ksel).reg ∧
    ((selectKey s ksel).valid ≠ 0 → (selectKey s' ksel).key = (selectKey s ksel).key) := by
  unfold Machine.selectKey
  split
  · exact ⟨h.keyNwkV.symm, rfl, rfl, h.keyNwk⟩
  · exact ⟨h.keyAppV.symm, rfl, rfl, h.keyApp⟩

theorem SameOperands.withKey (h : SameOperands s s') (ksel : Bit) {k k' : Block → Host.Outcome State Fault Refusal}
    (hk : ∀ K, Alike s s' (k K) (k' K)) : Alike s s' (withKey s ksel k) (withKey s' ksel k') := by
  obtain ⟨hvalid, hkind, hreg, hkey⟩ := h.selectKey ksel
  simp only [Machine.withKey, ← hvalid, ← hkind, ← hreg]
  split
  · exact .delivered (Work.Fresh.coherent ⟨rfl, rfl, rfl⟩ |>.note (by simp) (by simp)) []
  · next hv => exact .need (hkey hv) hk

/-! ### The operations -/

theorem Work.Fresh.empty : Work.Fresh {} := ⟨rfl, rfl, rfl⟩

/-- MalformedLength before anything else is worked out. -/
theorem coherent_malformedLength (p : Place) : (raise (.malformedLength p) {}).work.Coherent :=
  Work.Fresh.empty.coherent.note (by simp) (by simp)

theorem opAesblk_alike (h : SameOperands s s') (cfg : Config) : Alike s s' (opAesblk cfg s) (opAesblk cfg s') :=
  h.withInput fun input => .need h.ksel fun ksel => h.withKey ksel fun K => by
    split
    · exact .delivered Work.Fresh.empty.coherent _
    · exact .delivered (coherent_malformedLength _) []

theorem opCipher_alike (h : SameOperands s s') (cfg : Config) : Alike s s' (opCipher cfg s) (opCipher cfg s') :=
  h.withInput fun _ => .need h.ksel fun ksel => h.withDir fun _ => .need h.addr fun _ => .need h.cnt fun _ =>
    .need h.be fun _ => h.withKey ksel fun _ => .delivered Work.Fresh.empty.coherent _

/-- A reported stream is coherent with its direction, whatever the walk's stop records. -/
theorem coherent_macparse (stream : Bytes) (dir : Direction) :
    (Work.noteStop (macparse defaultCmdTab stream dir).stop
      { report := { stream := some (macparse defaultCmdTab stream dir), direction := some dir } }).Coherent := by
  refine Work.Coherent.noteStop ⟨by simp, by simp, by simp, ?_⟩ _
  rintro _ ⟨⟩
  exact ⟨dir, rfl, macparse_coherent stream dir⟩

theorem runMacparse_alike (s s' : State) (stream : Bytes) (dir : Direction) :
    Alike s s' (runMacparse Config.hw stream dir s) (runMacparse Config.hw stream dir s') :=
  .delivered (coherent_macparse stream dir) []

theorem opMacparse_alike (h : SameOperands s s') : Alike s s' (opMacparse Config.hw s) (opMacparse Config.hw s') :=
  h.withInput fun input => h.withDir fun dir => runMacparse_alike s s' input dir

theorem opMhdr_alike (h : SameOperands s s') (cfg : Config) : Alike s s' (opMhdr cfg s) (opMhdr cfg s') :=
  h.withInput fun input => by
    split
    · exact .delivered (Work.Fresh.coherent ⟨rfl, rfl, rfl⟩) []
    · exact .delivered (coherent_malformedLength _) []

theorem opFctrl_alike (h : SameOperands s s') (cfg : Config) : Alike s s' (opFctrl cfg s) (opFctrl cfg s') :=
  h.withInput fun input => h.withDir fun dir => by
    split
    · exact .delivered (Work.Fresh.coherent ⟨rfl, rfl, rfl⟩) []
    · exact .delivered (coherent_malformedLength _) []

theorem opFhdr_alike (h : SameOperands s s') : Alike s s' (opFhdr Config.hw s) (opFhdr Config.hw s') :=
  h.withInput fun input => h.withDir fun dir => by
    rw [h.fcntHi]
    exact .delivered (fhdr_headed Work.Fresh.empty input dir s.fcntHi).coherent []

theorem opJoinreq_alike (h : SameOperands s s') (cfg : Config) : Alike s s' (opJoinreq cfg s) (opJoinreq cfg s') :=
  h.withInput fun input => .delivered (joinreqInto_coherent Work.Fresh.empty input) []

theorem opJoinacc_alike (h : SameOperands s s') (cfg : Config) : Alike s s' (opJoinacc cfg s) (opJoinacc cfg s') :=
  h.withInput fun input => by
    unfold joinaccInto
    cases joinacc input with
    | none => exact .delivered (coherent_malformedLength _) []
    | some j => exact .delivered (Work.Fresh.coherent ⟨rfl, rfl, rfl⟩) []

/-! ### The frame decoder -/

theorem SameOperands.frmPlainOf (h : SameOperands s s') (cfg : Config) (reg : Reg) (key : Option Block)
    (dir : Direction) (d : DataReport) : frmPlainOf cfg s' reg key dir d = frmPlainOf cfg s reg key dir d := by
  simp only [Machine.frmPlainOf, h.be]

theorem SameOperands.commandsStep (h : SameOperands s s') (cfg : Config) (dir : Direction) (d : DataReport) (w : Work) :
    commandsStep cfg s' dir d w = commandsStep cfg s dir d w := by
  unfold Machine.commandsStep
  rw [h.keyNwkV]
  split
  · next hv => rw [h.keyNwk (by simp [hv]), h.frmPlainOf]
  · rfl

theorem SameOperands.appDataStep (h : SameOperands s s') (cfg : Config) (dir : Direction) (d : DataReport) (w : Work) :
    appDataStep cfg s' dir d w = appDataStep cfg s dir d w := by
  unfold Machine.appDataStep
  rw [h.keyAppV]
  split
  · next hv => rw [h.keyApp (by simp [hv]), h.frmPlainOf]
  · rfl

theorem SameOperands.dataFrame (h : SameOperands s s') (cfg : Config) (dir : Direction) (body : Bytes) (w : Work) :
    dataFrame cfg s' dir body w = dataFrame cfg s dir body w := by
  simp only [Machine.dataFrame, payloadStep, h.fcntHi, h.commandsStep, h.appDataStep]

theorem SameOperands.branch (h : SameOperands s s') (cfg : Config) (ft : FrameType) (body : Bytes) (w : Work) :
    branch cfg s' ft body w = branch cfg s ft body w := by
  cases ft
  case joinRequest | joinAccept | reserved | proprietary => rfl
  all_goals exact h.dataFrame cfg _ body w

theorem runFrame_alike (h : SameOperands s s') (m : Mhdr) (F : Bytes) :
    Alike s s' (runFrame Config.hw s m F) (runFrame Config.hw s' m F) := by
  unfold runFrame
  split
  · exact .delivered (Work.Fresh.empty.coherent.note (by simp) (by simp)) []
  · dsimp only
    rw [h.branch]
    split
    · exact .refused _
    · next hb => exact .delivered (branch_coherent ⟨rfl, rfl, rfl⟩ rfl rfl hb) []

theorem opDecode_alike (h : SameOperands s s') : Alike s s' (opDecode Config.hw s) (opDecode Config.hw s') :=
  h.withInput fun F => runFrame_alike h (mhdr (byteAt F 0)) F

theorem runFrameType_alike (h : SameOperands s s') (m : Mhdr) : Alike s s' (runFrameType m s) (runFrameType m s') :=
  h.withInput fun F => runFrame_alike h m F

/-- The inversion of `exec`: an operation, a frame type (log 12), or a command (log 13). -/
theorem exec_alike (h : SameOperands s s') (i : Instr) : Alike s s' (exec i s) (exec i s') := by
  cases i
  case decode => exact opDecode_alike h
  case cipher => exact opCipher_alike h Config.hw
  case macparse => exact opMacparse_alike h
  case fhdr => exact opFhdr_alike h
  case mhdr => exact opMhdr_alike h Config.hw
  case fctrl => exact opFctrl_alike h Config.hw
  case joinreq => exact opJoinreq_alike h Config.hw
  case joinacc => exact opJoinacc_alike h Config.hw
  case aesblk => exact opAesblk_alike h Config.hw
  case ftJoinrequest | ftJoinaccept | ftUnconfirmedup | ftUnconfirmeddown | ftConfirmedup | ftConfirmeddown
    | ftReserved | ftProprietary => exact runFrameType_alike h _
  all_goals exact runMacparse_alike s s' _ _

/-- What any instruction completes in. -/
theorem completedIn_exec {i : Instr} {t : State} (h : completedIn (exec i s) t) :
    ∃ w out, w.Coherent ∧ t = complete s w out :=
  (exec_alike (.refl s) i).completedIn h

end

/-! ### What every operation does to the state -/

/-- A completed state with a coherent result meets the invariant where `IN` keeps its canonical form. -/
theorem State.Inv.complete {s : State} (h : s.Inv) {w : Work} (hw : w.Coherent) (out : Bytes) :
    (complete s w out).Inv where
  inBuf := h.inBuf
  idle hi := nomatch hi
  done _ := ⟨w.err, out, w.report, rfl, rfl, rfl, rfl, hw⟩

/-- Settles O12: a step that completes delivers a coherent result (`exec_alike`) and no other register changes. -/
theorem stepKeepsInvariant : Obligations.StepKeepsInvariant := by
  unfold Obligations.StepKeepsInvariant
  intro s t hs ht
  unfold step at ht
  split at ht
  · rcases ht with hn | ⟨_, hf⟩ <;> contradiction
  · obtain ⟨w, out, hw, rfl⟩ := completedIn_exec ht
    exact hs.complete hw out

/-- Settles O8: by the inversion of `exec` and the laws of `complete`. -/
theorem operationsWriteOnlyResults : Obligations.OperationsWriteOnlyResults := by
  unfold Obligations.OperationsWriteOnlyResults
  intro i s t ht
  obtain ⟨w, out, -, rfl⟩ := completedIn_exec ht
  exact ⟨rfl, rfl, rfl, rfl, rfl, fun j => by simp⟩

theorem fetch_congr {s s' : State} (h : s.request = s'.request) : fetch s = fetch s' := by
  have hop : s.op = s'.op := congrArg Request.op h
  simp only [fetch, hop]

/-- Settles O10: the same request fetches the same instruction, whose outcomes are alike and complete alike. -/
theorem stepDependsOnRequestAlone : Obligations.StepDependsOnRequestAlone := by
  unfold Obligations.StepDependsOnRequestAlone
  intro s s' h
  unfold step
  rw [fetch_congr h]
  split
  · rfl
  · exact (exec_alike (.of_request_eq h) _).eq_of_request_eq h

/-- Settles O20: the two states have the same operands, and complete alike but for `IN`. -/
theorem bytesPastLengthNotRead : Obligations.BytesPastLengthNotRead := by
  unfold Obligations.BytesPastLengthNotRead
  intro i s m m' n hm hn hread
  exact (exec_alike (sameOperands_inBuf hm hn hread) i).eq_mapCompleted fun _ _ => rfl

/-- Settles O21: the two states have the same operands, and complete alike but for the absent key. -/
theorem absentKeyNotRead : Obligations.AbsentKeyNotRead := by
  unfold Obligations.AbsentKeyNotRead
  refine ⟨fun i s k hv => ?_, fun i s k hv => ?_⟩
  · exact (exec_alike (sameOperands_keyNwk hv k) i).eq_mapCompleted fun _ _ => rfl
  · exact (exec_alike (sameOperands_keyApp hv k) i).eq_mapCompleted fun _ _ => rfl

end Sys2Proof.Machine
end

section
/-! Proofs, family 10_state, fourth part: requests that are refused (R46). -/

namespace Sys2Proof.Machine

/-! ### Registers an operation always reads (R39) -/

/-- The request has no meaning: no step is taken (R277). -/
def Refused (o : Host.Outcome State Fault Refusal) : Prop := ∃ q, o = .refused q

/-- A register without a value refuses at once, so only the value it holds needs a look. -/
theorem refused_need {α : Type} {r : Reg} {v : Option α} {k : α → Host.Outcome State Fault Refusal}
    (h : ∀ a, v = some a → Refused (k a)) : Refused (need r v k) := by
  cases v with
  | none => exact ⟨_, rfl⟩
  | some a => exact h a rfl

theorem refused_withDir {s : State} {k : Direction → Host.Outcome State Fault Refusal}
    (h : ∀ d, s.dir = some d → Refused (k (Direction.ofBit d))) : Refused (withDir s k) := refused_need h

theorem refused_withInput {cfg : Config} {s : State} {k : Bytes → Host.Outcome State Fault Refusal}
    (h : ∀ bs, s.HasInput bs → Refused (k bs)) : Refused (withInput cfg s k) := by
  rcases withInput_cases (Eq.refl (withInput cfg s k)) with hr | ⟨bs, hbs, hk⟩
  · exact hr
  · rw [← hk]; exact h bs hbs

/-- Every instruction that reads an operand register reads the input first. -/
theorem exec_eq_withInput {i : Instr} (h : alwaysRead i ≠ []) (s : State) :
    ∃ k, exec i s = withInput Config.hw s k := by
  cases i
  case decode | cipher | macparse | fhdr | mhdr | fctrl | joinreq | joinacc | aesblk | ftJoinrequest | ftJoinaccept
    | ftUnconfirmedup | ftUnconfirmeddown | ftConfirmedup | ftConfirmeddown | ftReserved | ftProprietary =>
    exact ⟨_, rfl⟩
  all_goals exact absurd rfl h

theorem exec_refused_of_no_input {i : Instr} {s : State} (h : alwaysRead i ≠ []) (hs : ∀ bs, ¬ s.HasInput bs) :
    Refused (exec i s) := by
  obtain ⟨k, hk⟩ := exec_eq_withInput h s
  rw [hk]
  exact refused_withInput fun bs hbs => absurd hbs (hs bs)

theorem not_hasInput_of_unwritten {s : State} {m : Memory} {n j : Nat} (hm : s.inBuf = some m) (hn : s.inLen = some n)
    (hj : j < n) (hread : m.read j = none) (bs : Bytes) : ¬ s.HasInput bs := by
  rintro ⟨hlen, hbytes⟩
  obtain rfl : n = bs.length := Option.some.inj (hn.symm.trans hlen)
  rw [hm, Option.bind_some, Memory.readBytes_eq_some] at hbytes
  have := hbytes.2 j hj
  simp [hread, hj] at this

/-- The registers of R39's table beside the input. -/
theorem exec_refused_of_operand {i : Instr} {s : State} {r : Reg} (hr : r ∈ alwaysRead i) (hbuf : r ≠ .inBuf)
    (hlen : r ≠ .inLen) (h : holdsNoValue s r = true) : Refused (exec i s) := by
  cases i
  case cipher =>
    have hr' : r = .be ∨ r = .dir ∨ r = .ksel ∨ r = .addr ∨ r = .cnt := by simpa [alwaysRead, hbuf, hlen] using hr
    refine refused_withInput fun _ _ => refused_need fun _ hksel => refused_withDir fun _ hdir =>
      refused_need fun _ haddr => refused_need fun _ hcnt => refused_need fun _ hbe => ?_
    rcases hr' with rfl | rfl | rfl | rfl | rfl <;> simp [holdsNoValue, hksel, hdir, haddr, hcnt, hbe] at h
  case macparse | fhdr | fctrl =>
    obtain rfl : r = .dir := by simpa [alwaysRead, hbuf, hlen] using hr
    exact refused_withInput fun _ _ => refused_withDir fun _ hdir => by simp [holdsNoValue, hdir] at h
  case aesblk =>
    obtain rfl : r = .ksel := by simpa [alwaysRead, hbuf, hlen] using hr
    exact refused_withInput fun _ _ => refused_need fun _ hksel => by simp [holdsNoValue, hksel] at h
  all_goals simp [alwaysRead, hbuf, hlen] at hr

theorem exec_refused_of_holdsNoValue {i : Instr} {s : State} {r : Reg} (hr : r ∈ alwaysRead i)
    (h : holdsNoValue s r = true) : Refused (exec i s) := by
  by_cases hbuf : r = .inBuf
  · subst hbuf
    refine exec_refused_of_no_input (List.ne_nil_of_mem hr) fun bs hin => ?_
    have hnone : s.inBuf = none := by simpa [holdsNoValue] using h
    simpa [hnone] using hin.2
  · by_cases hlen : r = .inLen
    · subst hlen
      refine exec_refused_of_no_input (List.ne_nil_of_mem hr) fun bs hin => ?_
      have hnone : s.inLen = none := by simpa [holdsNoValue] using h
      simpa [hnone] using hin.1
    · exact exec_refused_of_operand hr hbuf hlen h

/-- A selected key that is marked valid and holds no value. -/
theorem refused_withKey {s : State}
    (h : (s.ksel = some 0 ∧ s.keyNwkV = 1 ∧ s.keyNwk = none) ∨ (s.ksel = some 1 ∧ s.keyAppV = 1 ∧ s.keyApp = none))
    {ksel : Bit} (hksel : s.ksel = some ksel) (k : Block → Host.Outcome State Fault Refusal) :
    Refused (withKey s ksel k) := by
  rcases h with ⟨h0, hv, hk⟩ | ⟨h1, hv, hk⟩
  · obtain rfl : ksel = 0 := Option.some.inj (hksel.symm.trans h0)
    exact ⟨.noValue .keyNwk, by simp [withKey, selectKey, hv, hk]⟩
  · obtain rfl : ksel = 1 := Option.some.inj (hksel.symm.trans h1)
    exact ⟨.noValue .keyApp, by simp [withKey, selectKey, hv, hk]⟩

/-- Settles O18: the registers by `exec_refused_of_holdsNoValue`, the selected key by `refused_withKey`, the bytes of
`IN` since an input with an unwritten byte is none. -/
theorem unwrittenRegisterRefused : Obligations.UnwrittenRegisterRefused := by
  unfold Obligations.UnwrittenRegisterRefused
  refine ⟨fun i s r hr h => exec_refused_of_holdsNoValue hr h, fun i s hi h => ?_,
    fun i s m n j hi hm hn hj hread =>
      exec_refused_of_no_input (List.ne_nil_of_mem hi) (not_hasInput_of_unwritten hm hn hj hread)⟩
  obtain rfl | rfl : i = .cipher ∨ i = .aesblk := by simpa using hi
  · exact refused_withInput fun _ _ => refused_need fun _ hksel => refused_withDir fun _ _ => refused_need fun _ _ =>
      refused_need fun _ _ => refused_need fun _ _ => refused_withKey h hksel _
  · exact refused_withInput fun _ _ => refused_need fun _ hksel => refused_withKey h hksel _

/-! ### Frames written out by their parts (R220, R222, R81) -/

/-- The header byte's three fields (R81, R143). -/
theorem mhdr_append (ft rfu : BitVec 3) (major : BitVec 2) :
    mhdr (ft ++ rfu ++ major) = ⟨frameTypeOf ft.toNat, rfu, major⟩ := by
  have hft : (ft ++ rfu ++ major).extractLsb' 5 3 = ft := by
    rw [BitVec.extractLsb'_append_eq_of_le (by omega)]
    exact BitVec.extractLsb'_append_eq_left
  have hrfu : (ft ++ rfu ++ major).extractLsb' 2 3 = rfu := by
    rw [BitVec.extractLsb'_append_eq_of_le (by omega)]
    exact BitVec.extractLsb'_append_eq_right
  have hmajor : (ft ++ rfu ++ major).extractLsb' 0 2 = major := BitVec.extractLsb'_append_eq_right
  have hbits : bits (ft ++ rfu ++ major) 7 5 = ft.toNat := by rw [bits_eq_extract]; exact congrArg BitVec.toNat hft
  simp only [mhdr, hbits, ofNat_bits _ 4 2 3 rfl, ofNat_bits _ 1 0 2 rfl, hrfu, hmajor]

theorem frameBody_append (b : Byte) (body : Bytes) {tag : Bytes} (ht : tag.length = 4) :
    frameBody (b :: body ++ tag) = body := by
  simp [frameBody, slice, ht]

theorem frameTag_append (b : Byte) (body : Bytes) {tag : Bytes} (ht : tag.length = 4) :
    frameTag (b :: body ++ tag) = tag := by
  have hlen : (b :: body ++ tag).length - 4 = (b :: body).length := by simp [ht]
  rw [frameTag, slice, hlen, List.drop_left]
  exact List.take_of_length_le (by simp [ht])

/-- The work a frame's branch starts from: the split and the header (R222). -/
def frameStart (m : Mhdr) (body tag : Bytes) : Work :=
  { report := { body := some body, tag := some tag, mhdr := some m, direction := direction m.ftype } }

/-- The branch on a frame of any body and a tag of four bytes. -/
theorem runFrame_append (cfg : Config) (s : State) (m : Mhdr) (b : Byte) (body : Bytes) {tag : Bytes}
    (ht : tag.length = 4) :
    runFrame cfg s m (b :: body ++ tag) =
      match branch cfg s m.ftype body (frameStart m body tag) with
      | .error r => .refused r
      | .ok w => deliver s w [] := by
  have hlen : ¬ (b :: body ++ tag).length < 5 := by simp [ht]
  rw [runFrame, if_neg hlen, frameBody_append b body ht, frameTag_append b body ht]
  rfl

/-- DECODE runs the frame under the header byte that stands in it. -/
theorem exec_decode_of_hasInput {s : State} {ft rfu : BitVec 3} {major : BitVec 2} {rest : Bytes}
    (h : s.HasInput ((ft ++ rfu ++ major) :: rest)) :
    exec .decode s =
      runFrame Config.hw s ⟨frameTypeOf ft.toNat, rfu, major⟩ ((ft ++ rfu ++ major) :: rest) := by
  rw [← mhdr_append]
  exact withInput_hw h _

/-! ### A cipher inside DECODE (R234, R236) -/

theorem tailClass_of_port {fopts : Bytes} {port : Byte} (h : ¬ (port = 0 ∧ fopts ≠ [])) (frm : Bytes) :
    tailClass fopts (port :: frm) = portClass 224 port := by
  simp only [tailClass, if_neg h, portClass]

/-- FHDR on a body with a port that is no conflict goes on with the port's class. -/
theorem fhdr_goesOn_of_port (dir : Direction) (hi : BitVec 16) (w : Work) (a0 a1 a2 a3 c0 c1 : Byte) {fc port : Byte}
    {fopts : Bytes} (frm : Bytes) (hfc : (fc.extractLsb' 0 4).toNat = fopts.length)
    (hconf : tailClass fopts (port :: frm) ≠ .conflict) :
    ∃ w' d, fhdr Config.hw (dataBody a0 a1 a2 a3 fc c0 c1 fopts (port :: frm)) dir hi w = .goesOn w' ∧
      w'.report.data = some d ∧ d.frmClass = some (tailClass fopts (port :: frm)) := by
  have hport : ¬ (port = 0 ∧ fopts ≠ []) := fun h => hconf (by simp [tailClass, h])
  have hport' : ¬ (port = 0 ∧ 0 < fopts.length) := by rwa [List.length_pos_iff]
  have hL : bits fc 3 0 = fopts.length := by rw [bits_eq_extract]; exact hfc
  have hlen : (dataBody a0 a1 a2 a3 fc c0 c1 fopts (port :: frm)).length = 7 + fopts.length + (1 + frm.length) := by
    simp [dataBody]; omega
  have hctrl : byteAt (dataBody a0 a1 a2 a3 fc c0 c1 fopts (port :: frm)) 4 = fc := rfl
  have hat : byteAt (dataBody a0 a1 a2 a3 fc c0 c1 fopts (port :: frm)) (7 + fopts.length) = port := by
    simp [byteAt, dataBody, Nat.add_comm 7]
  rw [fhdr, if_neg (by omega)]
  simp only [hctrl, hL]
  rw [if_neg (by omega), portAndBody, if_neg (by omega)]
  simp only [hat, if_neg hport', tailClass_of_port hport]
  exact ⟨_, _, rfl, rfl, rfl⟩

theorem frmPlainOf_error {cfg : Config} {s : State} {reg : Reg} {key : Option Block} {dir : Direction}
    {d : DataReport} (h : key = none ∨ s.be = none) : ∃ r, frmPlainOf cfg s reg key dir d = .error r := by
  cases key with
  | none => exact ⟨_, rfl⟩
  | some K =>
    have hbe : s.be = none := by simpa using h
    exact ⟨.noValue .be, by simp [frmPlainOf, hbe]⟩

/-- The class of a port calls for a key that is marked valid, and the key or `BE` holds no value. -/
def CipherLacksOperand (s : State) (cls : FrmClass) : Prop :=
  (cls = .commands ∧ s.keyNwkV = 1 ∧ (s.keyNwk = none ∨ s.be = none)) ∨
    (cls = .appData ∧ s.keyAppV = 1 ∧ (s.keyApp = none ∨ s.be = none))

theorem payloadStep_error {cfg : Config} {s : State} {dir : Direction} {w : Work} {d : DataReport} {cls : FrmClass}
    (hd : w.report.data = some d) (hcls : d.frmClass = some cls) (h : CipherLacksOperand s cls) :
    ∃ r, payloadStep cfg s dir w = .error r := by
  rcases h with ⟨rfl, hv, hlack⟩ | ⟨rfl, hv, hlack⟩
  · obtain ⟨r, hr⟩ := frmPlainOf_error (cfg := cfg) (reg := .keyNwk) (dir := dir) (d := d) hlack
    exact ⟨r, by simp [payloadStep, hd, hcls, commandsStep, hv, hr]⟩
  · obtain ⟨r, hr⟩ := frmPlainOf_error (cfg := cfg) (reg := .keyApp) (dir := dir) (d := d) hlack
    exact ⟨r, by simp [payloadStep, hd, hcls, appDataStep, hv, hr]⟩

/-- A frame whose branch is a data frame of such a body is refused. -/
theorem runFrame_refused {s : State} {m : Mhdr} {dir : Direction}
    (hbranch : ∀ body w, branch Config.hw s m.ftype body w = dataFrame Config.hw s dir body w)
    (b a0 a1 a2 a3 c0 c1 : Byte) {fc port : Byte} {fopts frm tag : Bytes} (ht : tag.length = 4)
    (hfc : (fc.extractLsb' 0 4).toNat = fopts.length) (h : CipherLacksOperand s (tailClass fopts (port :: frm))) :
    Refused (runFrame Config.hw s m (b :: dataBody a0 a1 a2 a3 fc c0 c1 fopts (port :: frm) ++ tag)) := by
  have hconf : tailClass fopts (port :: frm) ≠ .conflict := by
    rcases h with ⟨hc, -⟩ | ⟨hc, -⟩ <;> simp [hc]
  rw [runFrame_append _ _ _ _ _ ht, hbranch]
  obtain ⟨w, d, hf, hd, hcls⟩ := fhdr_goesOn_of_port dir s.fcntHi
    (frameStart m (dataBody a0 a1 a2 a3 fc c0 c1 fopts (port :: frm)) tag) a0 a1 a2 a3 c0 c1 frm hfc hconf
  obtain ⟨r, hr⟩ := payloadStep_error (cfg := Config.hw) (dir := dir) hd hcls h
  exact ⟨r, by simp only [dataFrame, hf, hr]⟩

/-- A data frame of such a body is refused as an instruction and under DECODE, which runs it under the same header. -/
theorem exec_dataFrame_refused {s : State} {ft : BitVec 3} {dir : Direction} {mk : BitVec 3 → BitVec 2 → Instr}
    {rfu : BitVec 3} {major : BitVec 2}
    (hexec : exec (mk rfu major) s = runFrameType ⟨frameTypeOf ft.toNat, rfu, major⟩ s)
    (hbranch : ∀ body w, branch Config.hw s (frameTypeOf ft.toNat) body w = dataFrame Config.hw s dir body w)
    {a0 a1 a2 a3 c0 c1 fc port : Byte} {fopts frm tag : Bytes}
    (hin : s.HasInput ((ft ++ rfu ++ major) :: dataBody a0 a1 a2 a3 fc c0 c1 fopts (port :: frm) ++ tag))
    (ht : tag.length = 4) (hfc : (fc.extractLsb' 0 4).toNat = fopts.length)
    (h : CipherLacksOperand s (tailClass fopts (port :: frm))) :
    Refused (exec (mk rfu major) s) ∧ Refused (exec .decode s) := by
  rw [hexec, exec_decode_of_hasInput hin, runFrameType, withInput_hw hin]
  exact and_self_iff.mpr (runFrame_refused hbranch _ a0 a1 a2 a3 c0 c1 ht hfc h)

/-- Settles O48: FHDR goes on to a payload step that lacks an operand, for each of the four data-frame types. -/
theorem cipherInsideDecodeNeedsBeAndKey : Obligations.CipherInsideDecodeNeedsBeAndKey := by
  unfold Obligations.CipherInsideDecodeNeedsBeAndKey ForDataFrames
  refine ⟨?_, ?_, ?_, ?_⟩
  all_goals
    intro s rfu major a0 a1 a2 a3 fc c0 c1 port fopts frm tag hin ht hfc h
    exact exec_dataFrame_refused rfl (fun _ _ => rfl) hin ht hfc h

end Sys2Proof.Machine
end

section
/-! Proofs, family 20_memory: an instruction reads no result of its own (R59), and `BE` reaches nothing of a DECODE but
the plaintext and the walk of it (R54). -/

namespace Sys2Proof.Machine

/-! ### Running an instruction again (R59) -/

/-- Settles O11: the result state holds the same request, from which the instruction has the same outcome. -/
theorem operationsAreIdempotent : Obligations.OperationsAreIdempotent := by
  unfold Obligations.OperationsAreIdempotent
  intro i s t h
  obtain ⟨w, out, -, rfl⟩ := completedIn_exec (.inl h)
  have hreq : s.request = (complete s w out).request := (complete_request s w out).symm
  rw [← (exec_alike (.of_request_eq hreq) i).eq_of_request_eq hreq, h]

/-! ### `BE` and the report of DECODE (R54) -/

/-- Where the first is worked out without a refusal so is the second, and the reports agree but for the plaintext and
the walk of it. -/
def OkUpToPlain (x x' : Except Refusal Work) : Prop :=
  ∀ w, x = .ok w → ∃ w', x' = .ok w' ∧ w'.report.withoutPlain = w.report.withoutPlain

theorem OkUpToPlain.refl (x : Except Refusal Work) : OkUpToPlain x x := fun w h => ⟨w, h, rfl⟩

section

variable (cfg : Config) (s : State) (be : Bit)

/-- The cipher is refused for a missing key or an unwritten `BE`, never for a value of `BE`; what is worked out from its
plaintext agrees where `f` puts the plaintext into nothing but the plaintext's own fields. -/
theorem frmPlainOf_map_be (reg : Reg) (key : Option Block) (dir : Direction) (d : DataReport) {f : Bytes → Work}
    (hf : ∀ p p', (f p').report.withoutPlain = (f p).report.withoutPlain) :
    OkUpToPlain ((frmPlainOf cfg s reg key dir d).map f)
      ((frmPlainOf cfg { s with be := some be } reg key dir d).map f) := by
  intro w h
  cases key with
  | none => cases h
  | some K =>
    cases hbe : s.be with
    | none => simp [frmPlainOf, hbe, Except.map] at h
    | some be₀ =>
      simp only [frmPlainOf, hbe, Except.map, Except.ok.injEq] at h ⊢
      exact ⟨_, rfl, h ▸ hf _ _⟩

theorem commandsStep_eq_map (dir : Direction) (d : DataReport) (w : Work) :
    commandsStep cfg s dir d w =
      if s.keyNwkV = 1 then
        (frmPlainOf cfg s .keyNwk s.keyNwk dir d).map fun plain =>
          (w.setData { d with frmPlain := some plain, frmCmds := some (macparse cfg.cmdtab plain dir) }).noteStop
            (macparse cfg.cmdtab plain dir).stop
      else .ok w := by
  unfold commandsStep
  cases frmPlainOf cfg s .keyNwk s.keyNwk dir d <;> rfl

theorem appDataStep_eq_map (dir : Direction) (d : DataReport) (w : Work) :
    appDataStep cfg s dir d w =
      if s.keyAppV = 1 then
        (frmPlainOf cfg s .keyApp s.keyApp dir d).map fun plain => w.setData { d with frmPlain := some plain }
      else .ok w := by
  unfold appDataStep
  cases frmPlainOf cfg s .keyApp s.keyApp dir d <;> rfl

theorem commandsStep_be (dir : Direction) (d : DataReport) (w : Work) :
    OkUpToPlain (commandsStep cfg s dir d w) (commandsStep cfg { s with be := some be } dir d w) := by
  simp only [commandsStep_eq_map]
  split
  · exact frmPlainOf_map_be cfg s be _ _ dir d fun _ _ => by simp only [noteStop_report]; rfl
  · exact .refl _

theorem appDataStep_be (dir : Direction) (d : DataReport) (w : Work) :
    OkUpToPlain (appDataStep cfg s dir d w) (appDataStep cfg { s with be := some be } dir d w) := by
  simp only [appDataStep_eq_map]
  split
  · exact frmPlainOf_map_be cfg s be _ _ dir d fun _ _ => rfl
  · exact .refl _

theorem payloadStep_be (dir : Direction) (w : Work) :
    OkUpToPlain (payloadStep cfg s dir w) (payloadStep cfg { s with be := some be } dir w) := by
  unfold payloadStep
  split
  · exact .refl _
  · next d _ =>
    split
    · exact commandsStep_be cfg s be dir d w
    · exact appDataStep_be cfg s be dir d w
    all_goals exact .refl _

/-- FHDR does not read `BE`, so only the payload step can differ. -/
theorem dataFrame_be (dir : Direction) (body : Bytes) (w : Work) :
    OkUpToPlain (dataFrame cfg s dir body w) (dataFrame cfg { s with be := some be } dir body w) := by
  simp only [dataFrame]
  cases fhdr cfg body dir s.fcntHi w with
  | ended w => exact .refl _
  | goesOn w => exact payloadStep_be cfg s be dir w

theorem branch_be (ft : FrameType) (body : Bytes) (w : Work) :
    OkUpToPlain (branch cfg s ft body w) (branch cfg { s with be := some be } ft body w) := by
  cases ft
  case joinRequest | joinAccept | reserved | proprietary => exact .refl _
  all_goals exact dataFrame_be cfg s be _ body w

end

theorem not_completedIn_refused (r : Refusal) (t : State) : ¬ completedIn (.refused r) t := by
  rintro (h | ⟨_, h⟩) <;> cases h

/-- Delivering completes, as a next state or as a fault. -/
theorem completedIn_deliver_complete (s : State) (w : Work) (out : Bytes) :
    completedIn (deliver s w out) (complete s w out) := by
  by_cases he : ∃ p, w.err = .malformedLength p
  · obtain ⟨p, hp⟩ := he
    exact .inr ⟨p, deliver_fault hp s out⟩
  · exact .inl (deliver_next (not_exists.mp he) s out)

/-- A completed operation has read its input. -/
theorem completedIn_withInput {cfg : Config} {s t : State} {k : Bytes → Host.Outcome State Fault Refusal}
    (h : completedIn (withInput cfg s k) t) : ∃ bs, s.HasInput bs ∧ completedIn (k bs) t := by
  rcases withInput_cases (Eq.refl (withInput cfg s k)) with ⟨r, hr⟩ | ⟨bs, hbs, hk⟩
  · exact absurd (hr ▸ h) (not_completedIn_refused r t)
  · exact ⟨bs, hbs, hk ▸ h⟩

/-- A frame of any header completes under every value of `BE`, with the same report but for the plaintext. -/
theorem runFrame_be {cfg : Config} {s t : State} {m : Mhdr} {F : Bytes} (h : completedIn (runFrame cfg s m F) t)
    (be : Bit) :
    ∃ t', completedIn (runFrame cfg { s with be := some be } m F) t' ∧
      t'.report.map Report.withoutPlain = t.report.map Report.withoutPlain := by
  unfold runFrame at h ⊢
  split at h
  · next hlen =>
    rw [if_pos hlen, completedIn_deliver h]
    exact ⟨_, completedIn_deliver_complete .., rfl⟩
  · next hlen =>
    rw [if_neg hlen]
    dsimp only at h ⊢
    split at h
    · exact absurd h (not_completedIn_refused _ _)
    · next w hb =>
      obtain ⟨w', hb', hrep⟩ := branch_be cfg s be _ _ _ w hb
      rw [hb', completedIn_deliver h]
      exact ⟨_, completedIn_deliver_complete .., congrArg some hrep⟩

/-- DECODE on its input (R220). -/
theorem exec_decode_eq_runFrame {s : State} {F : Bytes} (h : s.HasInput F) :
    exec .decode s = runFrame Config.hw s (mhdr (byteAt F 0)) F := withInput_hw h _

/-- Settles O53: the input does not depend on `BE`, and the frame in it by `runFrame_be`. -/
theorem beChangesOnlyPlaintext : Obligations.BeChangesOnlyPlaintext := by
  unfold Obligations.BeChangesOnlyPlaintext
  intro s t _ be' _ h
  obtain ⟨F, hin, hF⟩ := completedIn_withInput h
  obtain ⟨t', ht', hrep⟩ := runFrame_be hF be'
  refine ⟨t', ?_, hrep⟩
  rw [exec_decode_eq_runFrame (s := { s with be := some be' }) hin]
  exact ht'

end Sys2Proof.Machine
end

section
/-! Proofs, family 30_encoding (spec/30_encoding.md): the decoder and the encoder, format by format, and the table of
`OP`. -/

namespace Sys2Proof.Machine

/-! ### `OP` values (R100, R101) -/

/-- An operation of the table has its `OP` value as its encoding. -/
theorem encode_of_opOfCode {n : Nat} {i : Instr} (h : opOfCode n = some i) :
    i.format = .op ∧ i.wellFormed = true ∧ encode i = [BitVec.ofNat 8 n] := by
  unfold opOfCode at h
  split at h <;> cases h
  all_goals exact ⟨rfl, rfl, rfl⟩

theorem opOfCode_eq_none {n : Nat} (h : n = 0 ∨ 10 ≤ n) : opOfCode n = none := by
  unfold opOfCode
  split
  case h_10 => rfl
  all_goals omega

theorem opOfCode_of_decodeOp {b : Byte} {i : Instr} (h : decodeOp b = .ok i) : opOfCode b.toNat = some i := by
  unfold decodeOp at h
  split at h
  · split at h
    · next hi => cases h; exact hi
    · cases h
  · cases h

/-- A reserved value is rejected as such. -/
theorem decodeOp_reserved {b : Byte} (hlt : b.toNat < 16) (h : b.toNat = 0 ∨ 10 ≤ b.toNat) :
    decodeOp b = .error (.reservedOp b) := by
  rw [decodeOp, if_pos hlt, opOfCode_eq_none h]

theorem encode_of_decode_op {b : Byte} {rest rest' : Bytes} {i : Instr} (h : decode .op (b :: rest) = .ok (i, rest')) :
    i.format = .op ∧ i.wellFormed = true ∧ encode i ++ rest' = b :: rest := by
  simp only [decode] at h
  cases hb : decodeOp b with
  | error e => rw [hb] at h; cases h
  | ok j =>
    rw [hb] at h
    cases h
    obtain ⟨hf, hw, he⟩ := encode_of_opOfCode (opOfCode_of_decodeOp hb)
    exact ⟨hf, hw, by simp [he]⟩

/-! ### Header bytes (R81, R82) -/

/-- `ftype` is bits 7..5 of the header byte. -/
theorem bits_headerByte_ftype (ft rfu : BitVec 3) (major : BitVec 2) :
    bits (headerByte ft rfu major) 7 5 = ft.toNat := by
  have hft : (headerByte ft rfu major).extractLsb' 5 3 = ft := by
    rw [headerByte, BitVec.extractLsb'_append_eq_of_le (by omega)]
    exact BitVec.extractLsb'_append_eq_left
  rw [bits_eq_extract]
  exact congrArg BitVec.toNat hft

/-- The other two fields are those that MHDR reports. -/
theorem decodeHeader_headerByte (ft rfu : BitVec 3) (major : BitVec 2) :
    decodeHeader (headerByte ft rfu major) = frameOfType ft.toNat rfu major := by
  have hrfu := congrArg Mhdr.rfu (mhdr_append ft rfu major)
  have hmajor := congrArg Mhdr.major (mhdr_append ft rfu major)
  exact congr (congr (congrArg frameOfType (bits_headerByte_ftype ft rfu major)) hrfu) hmajor

theorem decode_headerByte (ft rfu : BitVec 3) (major : BitVec 2) (rest : Bytes) :
    decode .mhdr (headerByte ft rfu major :: rest) = .ok (frameOfType ft.toNat rfu major, rest) := by
  rw [decode, decodeHeader_headerByte]

/-- A byte is its three header fields, one after the other. -/
theorem headerByte_extract (b : Byte) :
    headerByte (b.extractLsb' 5 3) (b.extractLsb' 2 3) (b.extractLsb' 0 2) = b := by
  have hhigh : b.extractLsb' 5 3 ++ b.extractLsb' 2 3 = b.extractLsb' 2 6 :=
    BitVec.extractLsb'_append_extractLsb'_eq_extractLsb' (by omega)
  have hall : b.extractLsb' 2 6 ++ b.extractLsb' 0 2 = b.extractLsb' 0 8 :=
    BitVec.extractLsb'_append_extractLsb'_eq_extractLsb' (by omega)
  rw [headerByte, hhigh, hall, BitVec.extractLsb'_eq_self]

/-- The instruction of a frame type has the header byte of that type as its encoding. -/
theorem encode_frameOfType (ft rfu : BitVec 3) (major : BitVec 2) :
    (frameOfType ft.toNat rfu major).format = .mhdr ∧ (frameOfType ft.toNat rfu major).wellFormed = true ∧
      encode (frameOfType ft.toNat rfu major) = [headerByte ft rfu major] := by
  have hft : ft = 0 ∨ ft = 1 ∨ ft = 2 ∨ ft = 3 ∨ ft = 4 ∨ ft = 5 ∨ ft = 6 ∨ ft = 7 := by
    revert ft; decide
  rcases hft with rfl | rfl | rfl | rfl | rfl | rfl | rfl | rfl
  all_goals exact ⟨rfl, rfl, rfl⟩

/-- Every byte decodes as the header byte of its own three fields. -/
theorem encode_of_decode_mhdr {b : Byte} {rest rest' : Bytes} {i : Instr}
    (h : decode .mhdr (b :: rest) = .ok (i, rest')) :
    i.format = .mhdr ∧ i.wellFormed = true ∧ encode i ++ rest' = b :: rest := by
  rw [← headerByte_extract b, decode_headerByte] at h
  cases h
  obtain ⟨hf, hw, he⟩ := encode_frameOfType (b.extractLsb' 5 3) (b.extractLsb' 2 3) (b.extractLsb' 0 2)
  exact ⟨hf, hw, by rw [he, headerByte_extract]; rfl⟩

/-! ### Commands (R91, R181 to R198) -/

/-- A command of either half of the table has its identifier and its body as its encoding. -/
theorem encode_of_commandOf {dir : Direction} {n len : Nat} {mk : Bytes → Instr}
    (h : commandOf dir n = some (len, mk)) (body : Bytes) :
    (mk body).format = .cmd dir ∧ (mk body).bodyAndLength = some (body, len) ∧
      encode (mk body) = BitVec.ofNat 8 n :: body := by
  cases dir with
  | uplink =>
    simp only [commandOf, uplinkCommand] at h
    split at h <;> cases h
    all_goals exact ⟨rfl, rfl, rfl⟩
  | downlink =>
    simp only [commandOf, downlinkCommand] at h
    split at h <;> cases h
    all_goals exact ⟨rfl, rfl, rfl⟩

/-- A known identifier with a body of its row's length in front of any bytes. -/
theorem decode_of_commandOf {dir : Direction} {id : Byte} {len : Nat} {mk : Bytes → Instr} {body : Bytes}
    (h : commandOf dir id.toNat = some (len, mk)) (hlen : body.length = len) (rest : Bytes) :
    decode (.cmd dir) (id :: body ++ rest) = .ok (mk body, rest) := by
  subst hlen
  simp [decode, decodeCommand, h]

/-- The inversion of `decodeCommand`. -/
theorem decodeCommand_ok {dir : Direction} {id : Byte} {rest rest' : Bytes} {i : Instr}
    (h : decodeCommand dir id rest = .ok (i, rest')) :
    ∃ len mk, commandOf dir id.toNat = some (len, mk) ∧ len ≤ rest.length ∧ i = mk (rest.take len) ∧
      rest' = rest.drop len := by
  unfold decodeCommand at h
  split at h
  · cases h
  · next len mk hrow =>
    split at h
    · cases h
    · next hlen =>
      cases h
      exact ⟨len, mk, hrow, not_lt.mp hlen, rfl, rfl⟩

theorem encode_of_decode_cmd {dir : Direction} {b : Byte} {rest rest' : Bytes} {i : Instr}
    (h : decode (.cmd dir) (b :: rest) = .ok (i, rest')) :
    i.format = .cmd dir ∧ i.wellFormed = true ∧ encode i ++ rest' = b :: rest := by
  obtain ⟨len, mk, hrow, hlen, rfl, rfl⟩ := decodeCommand_ok h
  obtain ⟨hf, hb, he⟩ := encode_of_commandOf hrow (rest.take len)
  exact ⟨hf, by simp [Instr.wellFormed, hb, hlen], by simp [he]⟩

/-! ### Decode and encode -/

/-- Settles O1: an `OP` value by computation, a frame type by `decode_headerByte`, a command by its row. -/
theorem decodeOfEncodedInstruction : Obligations.DecodeOfEncodedInstruction := by
  unfold Obligations.DecodeOfEncodedInstruction
  intro i rest h
  cases i
  case decode | cipher | macparse | fhdr | mhdr | fctrl | joinreq | joinacc | aesblk => rfl
  case ftJoinrequest rfu major | ftJoinaccept rfu major | ftUnconfirmedup rfu major | ftUnconfirmeddown rfu major
      | ftConfirmedup rfu major | ftConfirmeddown rfu major | ftReserved rfu major | ftProprietary rfu major =>
    exact decode_headerByte _ rfu major rest
  all_goals exact decode_of_commandOf rfl (eq_of_beq h) rest

/-- Settles O2: format by format, the inversion of the decoder. -/
theorem encodeOfDecodedBytes : Obligations.EncodeOfDecodedBytes := by
  unfold Obligations.EncodeOfDecodedBytes
  intro f bs rest i h
  cases bs with
  | nil => cases h
  | cons b bs =>
    cases f with
    | op => exact encode_of_decode_op h
    | mhdr => exact encode_of_decode_mhdr h
    | cmd dir => exact encode_of_decode_cmd h

/-- Settles O3: the seven accepted words are encodings, so O1 reads them back; the rejections are computed. -/
theorem sampleWordsDecode : Obligations.SampleWordsDecode :=
  ⟨decodeOfEncodedInstruction .decode [] rfl,
   decodeOfEncodedInstruction .aesblk [] rfl,
   congrArg (Except.map fun i => (i, [])) (decodeOp_reserved (b := 0x0A) (by decide) (by decide)),
   decodeOfEncodedInstruction (.ftUnconfirmedup 7 1) [] rfl,
   decodeOfEncodedInstruction (.ftProprietary 1 3) [] rfl,
   decodeOfEncodedInstruction (.devStatusAns [0xFF, 0x20]) [0x02] rfl,
   decodeOfEncodedInstruction (.devStatusReq []) [0xFF] rfl,
   decodeOfEncodedInstruction (.linkADRReq [0x52, 0xFF, 0x00, 0x01]) [] rfl,
   rfl,
   rfl⟩

/-! ### The table of `OP` (R100) and its reserved values (R101) -/

/-- A start with a reserved `OP` value has no meaning (R101). -/
theorem step_reservedOp {s : State} {c : BitVec 4} (hop : s.op = some c) (hc : c.toNat = 0 ∨ 10 ≤ c.toNat) :
    step s = .refused (.reservedOp c) := by
  have hval : (c.setWidth 8).toNat = c.toNat := BitVec.toNat_setWidth_of_le (by omega)
  have hdec : decodeOp (c.setWidth 8) = .error (.reservedOp (c.setWidth 8)) :=
    decodeOp_reserved (hval ▸ c.isLt) (hval ▸ hc)
  have hfetch : fetch s = .error (.reservedOp c) := by simp [fetch, hop, decode, hdec, Except.map]
  simp [step, hfetch]

/-- Settles O5: each row of R100 by O4, the reserved values by `step_reservedOp`. -/
theorem opTableSelectsOperation : Obligations.OpTableSelectsOperation := by
  unfold Obligations.OpTableSelectsOperation
  refine ⟨fun s h => ?_, fun s h => ?_, fun s h => ?_, fun s h => ?_, fun s h => ?_, fun s h => ?_, fun s h => ?_,
    fun s h => ?_, fun s h => ?_, fun s c hop hc => step_reservedOp hop (hc.imp_left (congrArg BitVec.toNat))⟩
  all_goals exact stepRunsDecodedOperation s _ _ h rfl

end Sys2Proof.Machine
end

section
/-! Proofs, family 40_cipher (spec/40_cipher.md): `frm_cipher` byte by byte, and the operations AESBLK and CIPHER. -/

namespace Sys2Proof.Machine

/-! ### `frm_cipher` byte by byte (R126 to R132) -/

section

variable (aes : Block → Block → Block) (K : Block) (dir : Bit)

/-- One chunk (R128): its byte `j` is xored with byte `j` of the keystream block. -/
theorem xorBytes_take_getElem? (p : Bytes) (S : Block) {j : Nat} (hj : j < 16) :
    (xorBytes (p.take 16) S.toList)[j]? = p[j]?.map (· ^^^ S[j]) := by
  have hS : S.toList[j]? = some S[j] := by simp [hj]
  rw [xorBytes, List.getElem?_zipWith, List.getElem?_take_of_lt hj, hS]
  cases p[j]? <;> rfl

/-- Where the chunks cover the payload, output byte `j` is payload byte `j` xor byte `j mod 16` of the keystream block
`j / 16` places after the first chunk's. -/
theorem xorChunks_getElem? (a c : Quad) {n : Nat} (i : Nat) {p : Bytes} (hp : p.length ≤ 16 * n) (j : Nat) :
    (xorChunks aes K dir a c n i p)[j]? = p[j]?.map (· ^^^ (keystream aes K dir a c (i + j / 16))[j % 16]) := by
  induction n generalizing i p j with
  | zero =>
    obtain rfl : p = [] := List.length_eq_zero_iff.mp (by omega)
    rfl
  | succ n ih =>
    have hchunk : (xorBytes (p.take 16) (keystream aes K dir a c i).toList).length = min 16 p.length := by
      simp [xorBytes]
    by_cases hjp : p.length ≤ j
    · rw [List.getElem?_eq_none hjp, List.getElem?_eq_none (by rwa [xorChunks_length _ _ _ _ _ _ hp])]
      rfl
    · rw [xorChunks]
      by_cases hj : j < 16
      · rw [List.getElem?_append_left (by omega), xorBytes_take_getElem? p _ hj]
        simp only [Nat.div_eq_of_lt hj, Nat.mod_eq_of_lt hj, Nat.add_zero]
      · obtain ⟨k, rfl⟩ : ∃ k, j = 16 + k := ⟨j - 16, by omega⟩
        have hblock : i + 1 + k / 16 = i + (16 + k) / 16 := by omega
        have hbyte : (16 + k) % 16 = k % 16 := by omega
        rw [List.getElem?_append_right (by omega), hchunk, Nat.min_eq_left (by omega), Nat.add_sub_cancel_left,
          ih (i + 1) (by simp; omega), List.getElem?_drop]
        simp only [hblock, hbyte]

/-- Byte `j` of the output (R129): chunks are counted from 1. -/
theorem frmCipher_getElem? (addr cnt : Quad) (be : Bit) (P : Bytes) (j : Nat) :
    (frmCipher aes K dir addr cnt be P)[j]? =
      P[j]?.map (· ^^^ (keystream aes K dir (ordered be addr) (ordered be cnt) (j / 16 + 1))[j % 16]) := by
  rw [frmCipher, xorChunks_getElem? aes K dir _ _ 1 (by omega)]
  simp only [Nat.add_comm 1]

/-- The transform is its own inverse (R131): a byte xored twice with one keystream byte. -/
theorem frmCipher_frmCipher (addr cnt : Quad) (be : Bit) (P : Bytes) :
    frmCipher aes K dir addr cnt be (frmCipher aes K dir addr cnt be P) = P := by
  apply List.ext_getElem?
  intro j
  rw [frmCipher_getElem?, frmCipher_getElem?, Option.map_map]
  cases P[j]? with
  | none => rfl
  | some b =>
    simp only [Option.map_some, Function.comp_apply, BitVec.xor_assoc, BitVec.xor_self, BitVec.xor_zero]

/-- The block counter is one byte (R127), so block A comes again after 256 blocks. -/
theorem keystream_add_256 (a c : Quad) (i : Nat) : keystream aes K dir a c (i + 256) = keystream aes K dir a c i := by
  simp only [keystream, blockA, Nat.add_mod_right]

end

theorem setWidth_bit (d : Direction) : (d.bit.setWidth 8 : Byte) = if d = .uplink then 0 else 1 := by
  cases d <;> rfl

/-- Settles O24: `frmCipher_getElem?` with block A written out for each value of `BE`. -/
theorem frmCipherBytes : Obligations.FrmCipherBytes := by
  unfold Obligations.FrmCipherBytes
  intro aes K d addr cnt P
  refine ⟨frmCipher_length .., frmCipher_length .., fun j h => ⟨?_, ?_⟩⟩
  all_goals
    rw [frmCipher_getElem?, List.getElem?_eq_getElem h, keystream, blockA, setWidth_bit]
    rfl

/-- Settles O25. -/
theorem frmCipherSelfInverse : Obligations.FrmCipherSelfInverse := frmCipher_frmCipher

/-- Settles O26: the two positions have the same byte of the same keystream block. -/
theorem keystreamPeriod : Obligations.KeystreamPeriod := by
  unfold Obligations.KeystreamPeriod
  intro aes K dir addr cnt be P j p p' hp hp'
  have hblock : (j + 4096) / 16 + 1 = j / 16 + 1 + 256 := by omega
  have hbyte : (j + 4096) % 16 = j % 16 := by omega
  refine ⟨(keystream aes K dir (ordered be addr) (ordered be cnt) (j / 16 + 1))[j % 16], ?_, ?_⟩
  · rw [frmCipher_getElem?, hp]
    rfl
  · rw [frmCipher_getElem?, hp']
    simp only [hblock, hbyte, keystream_add_256, Option.map_some]

/-! ### The key operand (R28, R271) -/

/-- A present selected key is read. -/
theorem State.SelectedKey.withKey_eq {s : State} {K : Block} (h : s.SelectedKey K) :
    ∃ ksel, s.ksel = some ksel ∧ ∀ k, withKey s ksel k = k K := by
  rcases h with ⟨hsel, hv, hk⟩ | ⟨hsel, hv, hk⟩
  · exact ⟨0, hsel, withKey_valid hv hk⟩
  · exact ⟨1, hsel, withKey_valid hv hk⟩

/-- An absent selected key ends the operation with MissingKey of its kind. -/
theorem State.SelectedKeyAbsent.withKey_eq {s : State} {kind : KeyKind} (h : s.SelectedKeyAbsent kind) :
    ∃ ksel, s.ksel = some ksel ∧ ∀ k, withKey s ksel k = .next (complete s { err := .missingKey kind } []) := by
  rcases h with ⟨hsel, hv, rfl⟩ | ⟨hsel, hv, rfl⟩
  · exact ⟨0, hsel, withKey_absent hv⟩
  · exact ⟨1, hsel, withKey_absent hv⟩

/-! ### AESBLK (R122) -/

@[simp] theorem blockOf_toList (B : Block) : blockOf B.toList = B := by
  ext i hi
  simp [blockOf, byteAt]

/-- AESBLK with its operands written: the key test, then the length test (R270). -/
theorem exec_aesblk_of_operands {s : State} {bs : Bytes} {ksel : Bit} (hin : s.HasInput bs)
    (hksel : s.ksel = some ksel) :
    exec .aesblk s = withKey s ksel fun K =>
      if bs.length = 16 then deliver s {} (Config.hw.aes128 K (blockOf bs)).toList
      else deliver s { err := .malformedLength .aesblk } [] := by
  change opAesblk Config.hw s = _
  rw [opAesblk, withInput_hw hin, hksel]
  rfl

theorem exec_aesblk_of_selectedKey {s : State} {bs : Bytes} {K : Block} (hin : s.HasInput bs) (hkey : s.SelectedKey K) :
    exec .aesblk s =
      if bs.length = 16 then deliver s {} (Config.hw.aes128 K (blockOf bs)).toList
      else deliver s { err := .malformedLength .aesblk } [] := by
  obtain ⟨ksel, hksel, hread⟩ := hkey.withKey_eq
  rw [exec_aesblk_of_operands hin hksel, hread]

/-- Settles O22: the selected key decides first, then the length. -/
theorem aesblkResult : Obligations.AesblkResult := by
  unfold Obligations.AesblkResult
  refine ⟨fun s K B hin hkey => ?_, fun s bs kind hin hkey => ?_, fun s bs K hin hkey hlen => ?_⟩
  · rw [exec_aesblk_of_selectedKey hin hkey, if_pos (by simp), blockOf_toList]
    exact deliver_next (by simp) ..
  · obtain ⟨ksel, hksel, hread⟩ := hkey.withKey_eq
    rw [exec_aesblk_of_operands hin hksel, hread]
  · rw [exec_aesblk_of_selectedKey hin hkey, if_neg hlen]
    exact deliver_fault rfl ..

/-! ### CIPHER (R130, R131) -/

theorem bit_ofBit (b : Bit) : (Direction.ofBit b).bit = b := by revert b; decide

/-- CIPHER with its operands written: every length is accepted. -/
theorem exec_cipher_of_operands {s : State} {P : Bytes} {ksel dir be : Bit} {addr cnt : Quad} (hin : s.HasInput P)
    (hksel : s.ksel = some ksel) (hdir : s.dir = some dir) (haddr : s.addr = some addr) (hcnt : s.cnt = some cnt)
    (hbe : s.be = some be) :
    exec .cipher s = withKey s ksel fun K => deliver s {} (frmCipher Config.hw.aes128 K dir addr cnt be P) := by
  change opCipher Config.hw s = _
  rw [opCipher, withInput_hw hin, hksel, need_some, withDir_some hdir, haddr, hcnt, hbe, bit_ofBit]
  rfl

theorem exec_cipher_of_selectedKey {s : State} {P : Bytes} {K : Block} {dir be : Bit} {addr cnt : Quad}
    (hin : s.HasInput P) (hkey : s.SelectedKey K) (hdir : s.dir = some dir) (haddr : s.addr = some addr)
    (hcnt : s.cnt = some cnt) (hbe : s.be = some be) :
    exec .cipher s = .next (complete s {} (frmCipher Config.hw.aes128 K dir addr cnt be P)) := by
  obtain ⟨ksel, hksel, hread⟩ := hkey.withKey_eq
  rw [exec_cipher_of_operands hin hksel hdir haddr hcnt hbe, hread]
  exact deliver_next (by simp) ..

/-- Settles O23: with the key present by `exec_cipher_of_selectedKey`, with it absent by the key test. -/
theorem cipherResult : Obligations.CipherResult := by
  unfold Obligations.CipherResult
  refine ⟨fun s P K d addr cnt be hin hkey => exec_cipher_of_selectedKey hin hkey,
    fun s P d addr cnt be kind hin hkey hdir haddr hcnt hbe => ?_⟩
  obtain ⟨ksel, hksel, hread⟩ := hkey.withKey_eq
  rw [exec_cipher_of_operands hin hksel hdir haddr hcnt hbe, hread]

/-- A register that an operation always reads held a value where it completed (R46). -/
theorem holdsNoValue_eq_false_of_next {i : Instr} {s t : State} {r : Reg} (h : exec i s = .next t)
    (hr : r ∈ alwaysRead i) : holdsNoValue s r = false := by
  refine Bool.eq_false_of_not_eq_true fun hnone => ?_
  obtain ⟨q, hq⟩ := exec_refused_of_holdsNoValue hr hnone
  rw [h] at hq
  cases hq

/-- The four operands of CIPHER beside the input and the key held values where it completed. -/
theorem cipher_operands_of_next {s t : State} (h : exec .cipher s = .next t) :
    ∃ dir addr cnt be, s.dir = some dir ∧ s.addr = some addr ∧ s.cnt = some cnt ∧ s.be = some be := by
  have hsome {α : Type} {v : Option α} (hv : v.isNone = false) : ∃ a, v = some a :=
    Option.isSome_iff_exists.mp (by simpa using hv)
  obtain ⟨dir, hdir⟩ := hsome (holdsNoValue_eq_false_of_next (r := .dir) h (by decide))
  obtain ⟨addr, haddr⟩ := hsome (holdsNoValue_eq_false_of_next (r := .addr) h (by decide))
  obtain ⟨cnt, hcnt⟩ := hsome (holdsNoValue_eq_false_of_next (r := .cnt) h (by decide))
  obtain ⟨be, hbe⟩ := hsome (holdsNoValue_eq_false_of_next (r := .be) h (by decide))
  exact ⟨dir, addr, cnt, be, hdir, haddr, hcnt, hbe⟩

/-- Settles O27: the second run reads the first one's output under the same operands, and `frm_cipher` undoes itself. -/
theorem cipherOperationSelfInverse : Obligations.CipherOperationSelfInverse := by
  unfold Obligations.CipherOperationSelfInverse
  intro s s' t P K hin hkey h hs'
  obtain ⟨dir, addr, cnt, be, hdir, haddr, hcnt, hbe⟩ := cipher_operands_of_next h
  obtain rfl : complete s {} (frmCipher Config.hw.aes128 K dir addr cnt be P) = t :=
    Host.Outcome.next.inj ((exec_cipher_of_selectedKey hin hkey hdir haddr hcnt hbe).symm.trans h)
  obtain rfl : s' = setInput (frmCipher Config.hw.aes128 K dir addr cnt be P) (complete s {} _) := hs'
  have hrun := exec_cipher_of_selectedKey (setInput_hasInput (frmCipher Config.hw.aes128 K dir addr cnt be P)
    (complete s {} (frmCipher Config.hw.aes128 K dir addr cnt be P))) hkey hdir haddr hcnt hbe
  rwa [frmCipher_frmCipher] at hrun

end Sys2Proof.Machine
end

section
/-! Proofs, family 41_frame_header (spec/41_frame_header.md), first part: MHDR and FCTRL, whose fields are the bit
ranges of one byte. -/

namespace Sys2Proof.Machine

/-! ### MHDR (R141 to R144) -/

/-- MHDR on its input: one byte is a header byte. -/
theorem exec_mhdr_of_hasInput {s : State} {bs : Bytes} (h : s.HasInput bs) :
    exec .mhdr s =
      if bs.length = 1 then
        deliver s
          { report := { mhdr := some (mhdr (byteAt bs 0)), direction := direction (mhdr (byteAt bs 0)).ftype } } []
      else deliver s { err := .malformedLength .mhdr } [] := withInput_hw h _

/-- MHDR completes with the fields of a header byte written out by them, and the direction of its frame type. -/
theorem exec_mhdr_headerByte {s : State} {ft rfu : BitVec 3} {major : BitVec 2} (h : s.HasInput [ft ++ rfu ++ major]) :
    exec .mhdr s = .next (complete s
      { report := { mhdr := some ⟨frameTypeOf ft.toNat, rfu, major⟩, direction := direction (frameTypeOf ft.toNat) } }
      []) := by
  have hbyte : byteAt [ft ++ rfu ++ major] 0 = ft ++ rfu ++ major := rfl
  rw [exec_mhdr_of_hasInput h, if_pos List.length_singleton, hbyte, mhdr_append]
  exact deliver_next (by simp) ..

/-- Settles O28: the header byte by `exec_mhdr_headerByte`, frame type and direction row by row of the table. -/
theorem mhdrResult : Obligations.MhdrResult := by
  unfold Obligations.MhdrResult
  refine ⟨fun s ft rfu major t dir hin hmem => ?_, fun s bs hin hlen => ?_⟩
  · have hrun := exec_mhdr_headerByte hin
    simp only [List.mem_cons, Prod.mk.injEq, List.not_mem_nil, or_false] at hmem
    rcases hmem with ⟨rfl, rfl, rfl⟩ | ⟨rfl, rfl, rfl⟩ | ⟨rfl, rfl, rfl⟩ | ⟨rfl, rfl, rfl⟩ | ⟨rfl, rfl, rfl⟩ |
      ⟨rfl, rfl, rfl⟩ | ⟨rfl, rfl, rfl⟩ | ⟨rfl, rfl, rfl⟩
    all_goals exact hrun
  · rw [exec_mhdr_of_hasInput hin, if_neg hlen]
    exact deliver_fault rfl ..

/-! ### FCTRL (R146 to R149) -/

/-- FCTRL on its input: one byte is a control byte. -/
theorem exec_fctrl_of_hasInput {s : State} {bs : Bytes} {d : Bit} (h : s.HasInput bs) (hd : s.dir = some d) :
    exec .fctrl s =
      if bs.length = 1 then deliver s { report := { fctrl := some (fctrl (byteAt bs 0) (Direction.ofBit d)) } } []
      else deliver s { err := .malformedLength .fctrl } [] := by
  change opFctrl Config.hw s = _
  rw [opFctrl, withInput_hw h, withDir_some hd]
  rfl

/-- FCTRL completes with the fields of its one byte. -/
theorem exec_fctrl_singleton {s : State} {c : Byte} {d : Bit} (h : s.HasInput [c]) (hd : s.dir = some d) :
    exec .fctrl s = .next (complete s { report := { fctrl := some (fctrl c (Direction.ofBit d)) } } []) := by
  rw [exec_fctrl_of_hasInput h hd, if_pos List.length_singleton]
  exact deliver_next (by simp) ..

section

variable (b7 b6 b5 b4 : Bit) (len : BitVec 4)

/-- The bit ranges of a control byte written out by its bits (R146). -/
theorem extract_controlByte :
    (b7 ++ b6 ++ b5 ++ b4 ++ len).extractLsb' 7 1 = b7 ∧ (b7 ++ b6 ++ b5 ++ b4 ++ len).extractLsb' 6 1 = b6 ∧
    (b7 ++ b6 ++ b5 ++ b4 ++ len).extractLsb' 5 1 = b5 ∧ (b7 ++ b6 ++ b5 ++ b4 ++ len).extractLsb' 4 1 = b4 ∧
    (b7 ++ b6 ++ b5 ++ b4 ++ len).extractLsb' 0 4 = len := by
  refine ⟨?_, ?_, ?_, ?_, BitVec.extractLsb'_append_eq_right⟩
  · repeat rw [BitVec.extractLsb'_append_eq_of_le (by omega)]
    exact BitVec.extractLsb'_eq_self
  all_goals
    repeat rw [BitVec.extractLsb'_append_eq_of_le (by omega)]
    exact BitVec.extractLsb'_append_eq_right

theorem fctrl_append_uplink :
    fctrl (b7 ++ b6 ++ b5 ++ b4 ++ len) .uplink =
      { raw := b7 ++ b6 ++ b5 ++ b4 ++ len, adr := b7, adrackreq := some b6, ack := b5, classb := some b4,
        foptslen := len } := by
  obtain ⟨h7, h6, h5, h4, hlen⟩ := extract_controlByte b7 b6 b5 b4 len
  simp only [fctrl, bit_eq_extract, ofNat_bits _ 3 0 4 rfl, h7, h6, h5, h4, hlen]

theorem fctrl_append_downlink :
    fctrl (b7 ++ b6 ++ b5 ++ b4 ++ len) .downlink =
      { raw := b7 ++ b6 ++ b5 ++ b4 ++ len, adr := b7, rfu6 := some b6, ack := b5, fpending := some b4,
        foptslen := len } := by
  obtain ⟨h7, h6, h5, h4, hlen⟩ := extract_controlByte b7 b6 b5 b4 len
  simp only [fctrl, bit_eq_extract, ofNat_bits _ 3 0 4 rfl, h7, h6, h5, h4, hlen]

end

/-- Settles O29: the fields of the byte in the direction that `DIR` stands for. -/
theorem fctrlResult : Obligations.FctrlResult := by
  unfold Obligations.FctrlResult
  refine ⟨fun s b7 b6 b5 b4 len hin => ⟨fun hd => ?_, fun hd => ?_⟩, fun s bs d hin hd hlen => ?_⟩
  · rw [exec_fctrl_singleton hin hd, ← fctrl_append_uplink]
    rfl
  · rw [exec_fctrl_singleton hin hd, ← fctrl_append_downlink]
    rfl
  · rw [exec_fctrl_of_hasInput hin hd, if_neg hlen]
    exact deliver_fault rfl ..

end Sys2Proof.Machine
end

section
/-! Proofs, family 41_frame_header, second part: FHDR, on a body written out by its map and on one that is too short;
and a data frame whose body is too short. -/

namespace Sys2Proof.Machine

/-! ### Little-endian numbers as bit vectors (R53) -/

/-- The first byte is the least significant: it stands at the right of the number the others make. -/
theorem ofNat_le_cons (w : Nat) (b : Byte) (bs : Bytes) :
    BitVec.ofNat (w + 8) (le (b :: bs)) = BitVec.ofNat w (le bs) ++ b := by
  have hlow : (b.toNat + 256 * le bs) % 2 ^ 8 = b.toNat := by have := b.isLt; omega
  have hhigh : (b.toNat + 256 * le bs) / 2 ^ 8 = le bs := by have := b.isLt; omega
  apply BitVec.eq_of_toNat_eq
  rw [BitVec.toNat_append, ← Nat.shiftLeft_add_eq_or_of_lt b.isLt, Nat.shiftLeft_eq, BitVec.toNat_ofNat,
    BitVec.toNat_ofNat, le_cons, Nat.add_comm w, Nat.pow_add, Nat.mod_mul, hlow, hhigh]
  ring

theorem ofNat_le_singleton (b : Byte) : BitVec.ofNat 8 (le [b]) = b := by
  simp

theorem ofNat_le_pair (b0 b1 : Byte) : BitVec.ofNat 16 (le [b0, b1]) = b1 ++ b0 := by
  rw [ofNat_le_cons 8, ofNat_le_singleton]

theorem ofNat_le_quad (b0 b1 b2 b3 : Byte) : BitVec.ofNat 32 (le [b0, b1, b2, b3]) = b3 ++ b2 ++ b1 ++ b0 := by
  rw [ofNat_le_cons 24, ofNat_le_cons 16, ofNat_le_cons 8, ofNat_le_singleton]

/-! ### The parts of a data-frame body (R63, R151) -/

/-- The fixed seven bytes, whatever follows them. -/
theorem fixedPart_append (a0 a1 a2 a3 fc c0 c1 : Byte) (rest : Bytes) (dir : Direction) (hi : BitVec 16) :
    fixedPart ([a0, a1, a2, a3, fc, c0, c1] ++ rest) dir hi =
      { devAddr := some (a3 ++ a2 ++ a1 ++ a0), fctrl := some (fctrl fc dir), fcnt16 := some (c1 ++ c0),
        fcnt32 := some (hi ++ (c1 ++ c0)) } := by
  have haddr : slice ([a0, a1, a2, a3, fc, c0, c1] ++ rest) 0 4 = [a0, a1, a2, a3] := rfl
  have hctrl : byteAt ([a0, a1, a2, a3, fc, c0, c1] ++ rest) 4 = fc := rfl
  have hcnt : slice ([a0, a1, a2, a3, fc, c0, c1] ++ rest) 5 7 = [c0, c1] := rfl
  simp only [fixedPart, haddr, hctrl, hcnt, ofNat_le_quad, ofNat_le_pair]

section

variable (a0 a1 a2 a3 fc c0 c1 : Byte) (fopts tail : Bytes)

theorem dataBody_length :
    (dataBody a0 a1 a2 a3 fc c0 c1 fopts tail).length = 7 + fopts.length + tail.length := by
  simp [dataBody]
  omega

/-- What stands from the inline commands on. -/
theorem drop_dataBody (n : Nat) :
    (dataBody a0 a1 a2 a3 fc c0 c1 fopts tail).drop (7 + n) = (fopts ++ tail).drop n := by
  rw [← List.drop_drop, dataBody, List.append_assoc]
  rfl

theorem slice_dataBody_fopts :
    slice (dataBody a0 a1 a2 a3 fc c0 c1 fopts tail) 7 (7 + fopts.length) = fopts := by
  rw [slice, drop_dataBody _ _ _ _ _ _ _ _ _ 0, Nat.add_sub_cancel_left]
  exact List.take_left

theorem byteAt_dataBody_port (port : Byte) (frm : Bytes) :
    byteAt (dataBody a0 a1 a2 a3 fc c0 c1 fopts (port :: frm)) (7 + fopts.length) = port := by
  simp [byteAt, dataBody, Nat.add_comm 7]

theorem drop_dataBody_port (port : Byte) (frm : Bytes) :
    (dataBody a0 a1 a2 a3 fc c0 c1 fopts (port :: frm)).drop (8 + fopts.length) = frm := by
  rw [show 8 + fopts.length = 7 + (fopts.length + 1) by omega, drop_dataBody, ← List.drop_drop, List.drop_left]
  rfl

end

/-! ### FHDR (R150 to R160) -/

section

variable (cfg : Config) (dir : Direction) (hi : BitVec 16) (w : Work)

/-- Below seven bytes FHDR keeps the direction alone (R160). -/
theorem fhdr_of_length_lt_seven {body : Bytes} (h : body.length < 7) :
    fhdr cfg body dir hi w = raise (.malformedLength .fhdr) (w.setDirection (some dir)) := by
  rw [fhdr, if_pos h]

/-- With fewer bytes after the fixed seven than `foptslen` says FHDR keeps the fixed part too (R160). -/
theorem fhdr_of_fopts_cut (a0 a1 a2 a3 c0 c1 : Byte) {fc : Byte} {rest : Bytes}
    (h : rest.length < (fc.extractLsb' 0 4).toNat) :
    fhdr cfg ([a0, a1, a2, a3, fc, c0, c1] ++ rest) dir hi w =
      raise (.malformedLength .fopts) ((w.setDirection (some dir)).setData
        { devAddr := some (a3 ++ a2 ++ a1 ++ a0), fctrl := some (fctrl fc dir), fcnt16 := some (c1 ++ c0),
          fcnt32 := some (hi ++ (c1 ++ c0)) }) := by
  have hL : bits (byteAt ([a0, a1, a2, a3, fc, c0, c1] ++ rest) 4) 3 0 = (fc.extractLsb' 0 4).toNat :=
    bits_eq_extract fc
  have hlen : ([a0, a1, a2, a3, fc, c0, c1] ++ rest).length = 7 + rest.length := by simp; omega
  rw [fhdr, if_neg (by omega)]
  simp only [hL]
  rw [if_pos (by omega), fixedPart_append]

end

/-- FHDR on a body with all its inline commands: the fixed part, the walk, and then port and body (R153, R154). -/
theorem fhdr_dataBody_eq_portAndBody (dir : Direction) (hi : BitVec 16) (w : Work) (a0 a1 a2 a3 c0 c1 : Byte)
    {fc : Byte} {fopts : Bytes} (tail : Bytes) (hfc : (fc.extractLsb' 0 4).toNat = fopts.length) :
    let body := dataBody a0 a1 a2 a3 fc c0 c1 fopts tail
    let d : DataReport :=
      { headerReport hi dir a0 a1 a2 a3 fc c0 c1 fopts tail with port := none, frm := none, frmClass := none }
    fhdr Config.hw body dir hi w =
      portAndBody Config.hw body fopts.length d
        (((w.setDirection (some dir)).setData d).noteStop (macparse Config.hw.cmdtab fopts dir).stop) := by
  intro body d
  have hL : bits (byteAt body 4) 3 0 = fopts.length := (bits_eq_extract fc).trans hfc
  have hlen : body.length = 7 + fopts.length + tail.length := dataBody_length ..
  have hfixed : fixedPart body dir hi = { d with fopts := none } := by
    rw [show body = _ from List.append_assoc .., fixedPart_append]
    rfl
  rw [fhdr, if_neg (by omega)]
  simp only [hL]
  rw [if_neg (by omega), slice_dataBody_fopts, hfixed]
  rfl

/-- Port and body of a body written out by its map (R154 to R158): the end of the body, a conflict, or another port. -/
theorem portAndBody_dataBody (hi : BitVec 16) (dir : Direction) (a0 a1 a2 a3 fc c0 c1 : Byte) (fopts tail : Bytes)
    (w : Work) :
    let d := headerReport hi dir a0 a1 a2 a3 fc c0 c1 fopts tail
    portAndBody Config.hw (dataBody a0 a1 a2 a3 fc c0 c1 fopts tail) fopts.length
        { d with port := none, frm := none, frmClass := none } w =
      if tailClass fopts tail = .conflict then raise .conflictingCommandPlacement (w.setData d)
      else .goesOn (w.setData d) := by
  intro d
  have hlen := dataBody_length a0 a1 a2 a3 fc c0 c1 fopts tail
  cases tail with
  | nil =>
    rw [portAndBody, if_pos (by simpa using hlen), if_neg (by simp [tailClass])]
    rfl
  | cons port frm =>
    rw [List.length_cons] at hlen
    rw [portAndBody, if_neg (by omega)]
    simp only [byteAt_dataBody_port, drop_dataBody_port]
    by_cases hconf : port = 0 ∧ fopts ≠ []
    · have hcls : tailClass fopts (port :: frm) = .conflict := by simp [tailClass, hconf]
      rw [if_pos ⟨hconf.1, List.length_pos_iff.mpr hconf.2⟩, if_pos hcls, ← hcls]
      rfl
    · have hcls : tailClass fopts (port :: frm) = portClass Config.hw.diagPort port := tailClass_of_port hconf frm
      rw [if_neg (by rwa [List.length_pos_iff]), if_neg (hcls ▸ portClass_ne_conflict _ port), ← hcls]
      rfl

/-- What FHDR works out of a body written out by its map, from what was there before it: the error and the data part. -/
def headerWork (hi : BitVec 16) (dir : Direction) (a0 a1 a2 a3 fc c0 c1 : Byte) (fopts tail : Bytes) (r : Report) :
    Work :=
  { err := headerErr dir fopts tail
    report :=
      { r with direction := some dir, data := some (headerReport hi dir a0 a1 a2 a3 fc c0 c1 fopts tail) } }

theorem note_eq (w : Work) (e : Err) : w.note e = { w with err := if w.err = .ok then e else w.err } := by
  unfold Work.note
  split <;> rfl

/-- The conflict is recorded where the walk recorded nothing (R155, R270). -/
theorem headerErr_of_conflict {dir : Direction} {fopts tail : Bytes} (h : tailClass fopts tail = .conflict) :
    headerErr dir fopts tail =
      if stopErr (macparse Config.hw.cmdtab fopts dir).stop = .ok then .conflictingCommandPlacement
      else stopErr (macparse Config.hw.cmdtab fopts dir).stop := by
  unfold headerErr
  cases (macparse Config.hw.cmdtab fopts dir).stop <;> simp [stopErr, h]

theorem headerErr_of_not_conflict {dir : Direction} {fopts tail : Bytes} (h : tailClass fopts tail ≠ .conflict) :
    headerErr dir fopts tail = stopErr (macparse Config.hw.cmdtab fopts dir).stop := by
  unfold headerErr
  cases (macparse Config.hw.cmdtab fopts dir).stop <;> simp [stopErr, h]

/-- FHDR on a body written out by its map: a conflict ends it, and it goes on otherwise (R155). -/
theorem fhdr_dataBody {dir : Direction} (hi : BitVec 16) {w : Work} (hw : w.err = .ok) (a0 a1 a2 a3 c0 c1 : Byte)
    {fc : Byte} {fopts : Bytes} (tail : Bytes) (hfc : (fc.extractLsb' 0 4).toNat = fopts.length) :
    fhdr Config.hw (dataBody a0 a1 a2 a3 fc c0 c1 fopts tail) dir hi w =
      if tailClass fopts tail = .conflict then .ended (headerWork hi dir a0 a1 a2 a3 fc c0 c1 fopts tail w.report)
      else .goesOn (headerWork hi dir a0 a1 a2 a3 fc c0 c1 fopts tail w.report) := by
  have herr (d : DataReport) : ((w.setDirection (some dir)).setData d).err = .ok := hw
  rw [fhdr_dataBody_eq_portAndBody dir hi w a0 a1 a2 a3 c0 c1 tail hfc, portAndBody_dataBody, noteStop_of_ok (herr _)]
  by_cases hconf : tailClass fopts tail = .conflict
  · rw [if_pos hconf, if_pos hconf, headerWork, headerErr_of_conflict hconf, raise, note_eq]
    rfl
  · rw [if_neg hconf, if_neg hconf, headerWork, headerErr_of_not_conflict hconf]
    rfl

/-- FHDR on its input. -/
theorem exec_fhdr_of_hasInput {s : State} {bs : Bytes} {dir : Direction} (h : s.HasInput bs)
    (hdir : s.dir = some dir.bit) : exec .fhdr s = deliver s (fhdr Config.hw bs dir s.fcntHi {}).work [] := by
  change opFhdr Config.hw s = _
  rw [opFhdr, withInput_hw h, withDir_some hdir, ofBit_bit]

/-- The error FHDR reports is MalformedLength where the inline commands are cut short (R174), and nowhere else. -/
theorem headerErr_of_isShort {dir : Direction} {fopts : Bytes} (tail : Bytes)
    (h : (macparse Config.hw.cmdtab fopts dir).stop.isShort = true) :
    headerErr dir fopts tail = .malformedLength .cmdBody := by
  unfold headerErr
  cases hs : (macparse Config.hw.cmdtab fopts dir).stop with
  | shortBody => rfl
  | complete | unrecognized => simp [hs, StreamStop.isShort] at h

theorem headerErr_ne_malformedLength {dir : Direction} {fopts : Bytes} (tail : Bytes)
    (h : (macparse Config.hw.cmdtab fopts dir).stop.isShort = false) (p : Place) :
    headerErr dir fopts tail ≠ .malformedLength p := by
  unfold headerErr
  cases hs : (macparse Config.hw.cmdtab fopts dir).stop with
  | complete => dsimp only; split <;> simp
  | unrecognized => simp
  | shortBody => simp [hs, StreamStop.isShort] at h

/-- Settles O30: what FHDR works out by `fhdr_dataBody`, whether it is a fault by the walk's stop. -/
theorem fhdrResult : Obligations.FhdrResult := by
  unfold Obligations.FhdrResult
  intro s dir a0 a1 a2 a3 fc c0 c1 fopts tail hin hdir hfc
  have hrun : exec .fhdr s = deliver s (headerWork s.fcntHi dir a0 a1 a2 a3 fc c0 c1 fopts tail {}) [] := by
    rw [exec_fhdr_of_hasInput hin hdir, fhdr_dataBody _ rfl a0 a1 a2 a3 c0 c1 tail hfc]
    split <;> rfl
  refine ⟨fun hstop => ?_, fun hstop => ?_⟩
  · rw [hrun]
    exact deliver_next (headerErr_ne_malformedLength tail hstop) ..
  · rw [hrun]
    exact deliver_fault (headerErr_of_isShort tail hstop) ..

/-- Settles O31: the two short bodies end FHDR before it has more than the direction, or than the fixed part. -/
theorem fhdrShortBody : Obligations.FhdrShortBody := by
  unfold Obligations.FhdrShortBody
  refine ⟨fun s dir bs hin hdir hlen => ?_, fun s dir a0 a1 a2 a3 fc c0 c1 rest hin hdir hlen => ?_⟩
  · rw [exec_fhdr_of_hasInput hin hdir, fhdr_of_length_lt_seven _ _ _ _ hlen]
    exact deliver_fault rfl ..
  · rw [exec_fhdr_of_hasInput hin hdir, fhdr_of_fopts_cut _ _ _ _ a0 a1 a2 a3 c0 c1 hlen]
    exact deliver_fault rfl ..

/-! ### Data frames (R228, R229, R232 to R234) -/

/-- One of the four data-frame types, with its number, direction and instruction. -/
structure IsDataFrame (ft : BitVec 3) (t : FrameType) (dir : Direction) (mk : BitVec 3 → BitVec 2 → Instr) : Prop where
  ftype  : frameTypeOf ft.toNat = t
  exec   : ∀ rfu major s, exec (mk rfu major) s = runFrameType ⟨t, rfu, major⟩ s
  branch : ∀ cfg s body w, branch cfg s t body w = dataFrame cfg s dir body w

/-- What holds of every data-frame type holds of the four. -/
theorem forDataFrames_of_isDataFrame {P : BitVec 3 → FrameType → Direction → (BitVec 3 → BitVec 2 → Instr) → Prop}
    (h : ∀ ft t dir mk, IsDataFrame ft t dir mk → P ft t dir mk) : ForDataFrames P := by
  refine ⟨h _ _ _ _ ?_, h _ _ _ _ ?_, h _ _ _ _ ?_, h _ _ _ _ ?_⟩
  all_goals exact ⟨rfl, fun _ _ _ => rfl, fun _ _ _ _ => rfl⟩

section

variable {ft : BitVec 3} {t : FrameType} {dir : Direction} {mk : BitVec 3 → BitVec 2 → Instr} {s : State}
  {rfu : BitVec 3} {major : BitVec 2} {body tag : Bytes}

/-- A data frame as an instruction and under DECODE, by what its body is worked out to. -/
theorem IsDataFrame.exec_of_ok (h : IsDataFrame ft t dir mk) (hin : s.HasInput ((ft ++ rfu ++ major) :: body ++ tag))
    (ht : tag.length = 4) {w : Work}
    (hw : dataFrame Config.hw s dir body (frameStart ⟨t, rfu, major⟩ body tag) = .ok w) :
    Machine.exec (mk rfu major) s = deliver s w [] ∧ Machine.exec .decode s = deliver s w [] := by
  have hframe : runFrame Config.hw s ⟨t, rfu, major⟩ ((ft ++ rfu ++ major) :: body ++ tag) = deliver s w [] := by
    rw [runFrame_append _ _ _ _ _ ht, h.branch, hw]
  have hdecode := exec_decode_of_hasInput hin
  rw [h.ftype] at hdecode
  rw [h.exec, runFrameType, withInput_hw hin]
  exact ⟨hframe, hdecode.trans hframe⟩

/-- Where FHDR raises MalformedLength no payload step follows (R234), and the frame is a fault that keeps what FHDR
kept. -/
theorem IsDataFrame.exec_of_fhdr_raise (h : IsDataFrame ft t dir mk)
    (hin : s.HasInput ((ft ++ rfu ++ major) :: body ++ tag)) (ht : tag.length = 4) {p : Place} {w : Work}
    (hw : w.err = .ok)
    (hfhdr : fhdr Config.hw body dir s.fcntHi (frameStart ⟨t, rfu, major⟩ body tag) = raise (.malformedLength p) w) :
    let after := complete s { err := .malformedLength p, report := w.report } []
    Machine.exec (mk rfu major) s = .fault (.malformedLength p after) ∧
      Machine.exec .decode s = .fault (.malformedLength p after) := by
  have hdata : dataFrame Config.hw s dir body (frameStart ⟨t, rfu, major⟩ body tag) =
      .ok { err := .malformedLength p, report := w.report } := by
    rw [dataFrame, hfhdr, ← note_of_ok hw]
    rfl
  obtain ⟨hexec, hdecode⟩ := h.exec_of_ok hin ht hdata
  rw [hexec, hdecode, and_self_iff]
  exact deliver_fault rfl ..

end

/-- Settles O45: FHDR raises on both short bodies, whatever the data-frame type. -/
theorem dataFrameShortBody : Obligations.DataFrameShortBody := by
  unfold Obligations.DataFrameShortBody
  refine forDataFrames_of_isDataFrame fun ft t dir mk h => ⟨?_, ?_⟩
  · intro s rfu major body tag hin ht hlen
    exact h.exec_of_fhdr_raise hin ht rfl (fhdr_of_length_lt_seven _ _ _ _ hlen)
  · intro s rfu major a0 a1 a2 a3 fc c0 c1 rest tag body hin ht hlen
    exact h.exec_of_fhdr_raise hin ht rfl (fhdr_of_fopts_cut _ _ _ _ a0 a1 a2 a3 c0 c1 hlen)

end Sys2Proof.Machine
end

section
/-! Proofs, family 41_frame_header, third part: the branch of a frame type carries what it finds in the split and the
header along and does not read it, so a change of those parts of the report is a change of the report it ends with. -/

namespace Sys2Proof.Machine

/-- A change of the parts of a report that no branch writes or reads: the split and the header byte (R222). -/
structure Report.ChangesFrameParts (f : Report → Report) : Prop where
  data         : ∀ r, (f r).data = r.data
  setData      : ∀ r d, f { r with data := d } = { f r with data := d }
  setDirection : ∀ r d, f { r with direction := d } = { f r with direction := d }
  setJoinreq   : ∀ r j, f { r with joinreq := j } = { f r with joinreq := j }
  setJoinacc   : ∀ r j, f { r with joinacc := j } = { f r with joinacc := j }

/-- A change of the report worked out so far. -/
def Work.mapReport (f : Report → Report) (w : Work) : Work := { w with report := f w.report }

/-- The same of what a flow has worked out, ended or not. -/
def Flow.mapReport (f : Report → Report) : Flow → Flow
  | .goesOn w => .goesOn (w.mapReport f)
  | .ended w => .ended (w.mapReport f)

theorem Flow.work_mapReport (f : Report → Report) (x : Flow) : (x.mapReport f).work = x.work.mapReport f := by
  cases x <;> rfl

/-! ### Recording and delivering -/

theorem note_mapReport (f : Report → Report) (w : Work) (e : Err) :
    (w.mapReport f).note e = (w.note e).mapReport f := by
  rw [note_eq, note_eq]
  rfl

theorem noteStop_mapReport (f : Report → Report) (w : Work) (stop : StreamStop) :
    (w.mapReport f).noteStop stop = (w.noteStop stop).mapReport f := by
  cases stop
  case complete => rfl
  all_goals exact note_mapReport f w _

theorem raise_mapReport (f : Report → Report) (e : Err) (w : Work) :
    raise e (w.mapReport f) = (raise e w).mapReport f := congrArg Flow.ended (note_mapReport f w e)

/-- Delivering a changed report is changing the report delivered. -/
theorem deliver_mapReport (f : Report → Report) (s : State) (w : Work) (out : Bytes) :
    deliver s (w.mapReport f) out = mapCompleted (State.mapReport f) (deliver s w out) := by
  by_cases he : ∃ p, w.err = .malformedLength p
  · obtain ⟨p, hp⟩ := he
    rw [deliver_fault hp, deliver_fault (show (w.mapReport f).err = _ from hp)]
    rfl
  · have hn : ∀ p, w.err ≠ .malformedLength p := not_exists.mp he
    rw [deliver_next hn, deliver_next (show ∀ p, (w.mapReport f).err ≠ _ from hn)]
    rfl

/-! ### The branch (R223 to R234) -/

section

variable {f : Report → Report} (hf : Report.ChangesFrameParts f) (w : Work)
include hf

theorem Report.ChangesFrameParts.work_setData (d : DataReport) :
    (w.mapReport f).setData d = (w.setData d).mapReport f :=
  congrArg (Work.mk w.err) (hf.setData w.report (some d)).symm

theorem Report.ChangesFrameParts.work_setDirection (d : Option Direction) :
    (w.mapReport f).setDirection d = (w.setDirection d).mapReport f :=
  congrArg (Work.mk w.err) (hf.setDirection w.report d).symm

theorem Report.ChangesFrameParts.joinreqInto (body : Bytes) :
    joinreqInto body (w.mapReport f) = (joinreqInto body w).mapReport f := by
  unfold Machine.joinreqInto
  split
  · exact congrArg (fun r => Flow.goesOn (Work.mk w.err r)) (hf.setJoinreq w.report _).symm
  · exact raise_mapReport f _ w

theorem Report.ChangesFrameParts.joinaccInto (body : Bytes) :
    joinaccInto body (w.mapReport f) = (joinaccInto body w).mapReport f := by
  unfold Machine.joinaccInto
  split
  · exact congrArg (fun r => Flow.goesOn (Work.mk w.err r)) (hf.setJoinacc w.report _).symm
  · exact raise_mapReport f _ w

variable (cfg : Config) (s : State) (dir : Direction)

theorem Report.ChangesFrameParts.portAndBody (body : Bytes) (L : Nat) (d : DataReport) :
    portAndBody cfg body L d (w.mapReport f) = (portAndBody cfg body L d w).mapReport f := by
  simp only [Machine.portAndBody, hf.work_setData, raise_mapReport]
  split
  · rfl
  · split <;> rfl

theorem Report.ChangesFrameParts.fhdr (body : Bytes) (hi : BitVec 16) :
    fhdr cfg body dir hi (w.mapReport f) = (fhdr cfg body dir hi w).mapReport f := by
  simp only [Machine.fhdr, hf.work_setDirection, hf.work_setData, noteStop_mapReport, hf.portAndBody, raise_mapReport]
  split
  · rfl
  · split <;> rfl

theorem Report.ChangesFrameParts.commandsStep (d : DataReport) :
    commandsStep cfg s dir d (w.mapReport f) = (commandsStep cfg s dir d w).map (Work.mapReport f) := by
  simp only [commandsStep_eq_map, hf.work_setData, noteStop_mapReport]
  split
  · cases frmPlainOf cfg s .keyNwk s.keyNwk dir d <;> rfl
  · rfl

theorem Report.ChangesFrameParts.appDataStep (d : DataReport) :
    appDataStep cfg s dir d (w.mapReport f) = (appDataStep cfg s dir d w).map (Work.mapReport f) := by
  simp only [appDataStep_eq_map, hf.work_setData]
  split
  · cases frmPlainOf cfg s .keyApp s.keyApp dir d <;> rfl
  · rfl

theorem Report.ChangesFrameParts.payloadStep :
    payloadStep cfg s dir (w.mapReport f) = (payloadStep cfg s dir w).map (Work.mapReport f) := by
  have hdata : (w.mapReport f).report.data = w.report.data := hf.data w.report
  unfold Machine.payloadStep
  rw [hdata]
  split
  · rfl
  · next d _ =>
    split
    · exact hf.commandsStep w cfg s dir d
    · exact hf.appDataStep w cfg s dir d
    all_goals rfl

theorem Report.ChangesFrameParts.dataFrame (body : Bytes) :
    dataFrame cfg s dir body (w.mapReport f) = (dataFrame cfg s dir body w).map (Work.mapReport f) := by
  unfold Machine.dataFrame
  rw [hf.fhdr]
  cases Machine.fhdr cfg body dir s.fcntHi w with
  | ended w' => rfl
  | goesOn w' => exact hf.payloadStep w' cfg s dir

theorem Report.ChangesFrameParts.branch (ft : FrameType) (body : Bytes) :
    branch cfg s ft body (w.mapReport f) = (branch cfg s ft body w).map (Work.mapReport f) := by
  cases ft
  case joinRequest =>
    exact congrArg Except.ok ((congrArg Flow.work (hf.joinreqInto w body)).trans (Flow.work_mapReport f _))
  case joinAccept =>
    exact congrArg Except.ok ((congrArg Flow.work (hf.joinaccInto w body)).trans (Flow.work_mapReport f _))
  case reserved | proprietary => exact congrArg Except.ok (note_mapReport f w _)
  all_goals exact hf.dataFrame w cfg s _ body

end

/-! ### Frames (R220) -/

/-- How a frame's branch is answered: refused, or delivered with no output. -/
def answer (s : State) : Except Refusal Work → Host.Outcome State Fault Refusal
  | .error r => .refused r
  | .ok w => deliver s w []

/-- A frame of five bytes or more is answered by its branch, from the split and the header on. -/
theorem runFrame_eq_answer (cfg : Config) (s : State) (m : Mhdr) {F : Bytes} (h : ¬ F.length < 5) :
    runFrame cfg s m F = answer s (branch cfg s m.ftype (frameBody F) (frameStart m (frameBody F) (frameTag F))) := by
  rw [runFrame, if_neg h]
  rfl

theorem answer_mapReport (f : Report → Report) (s : State) (x : Except Refusal Work) :
    answer s (x.map (Work.mapReport f)) = mapCompleted (State.mapReport f) (answer s x) := by
  cases x with
  | error r => rfl
  | ok w => exact deliver_mapReport f s w []

/-- Two headers whose frame types have one branch: where the reports it starts from differ by a change, so do the
outcomes. A truncated frame reports nothing that could differ. -/
theorem runFrame_mapReport {f : Report → Report} (hf : Report.ChangesFrameParts f) (hempty : f {} = {}) (cfg : Config)
    (s : State) {m m' : Mhdr} (hbranch : ∀ body w, branch cfg s m'.ftype body w = branch cfg s m.ftype body w)
    (hstart : ∀ body tag, frameStart m' body tag = (frameStart m body tag).mapReport f) (F : Bytes) :
    runFrame cfg s m' F = mapCompleted (State.mapReport f) (runFrame cfg s m F) := by
  by_cases hlen : F.length < 5
  · rw [runFrame, runFrame, if_pos hlen, if_pos hlen, ← deliver_mapReport, raise_work, ← note_mapReport, Work.mapReport,
      hempty]
  · rw [runFrame_eq_answer cfg s m' hlen, runFrame_eq_answer cfg s m hlen, hbranch, hstart, hf.branch, answer_mapReport]

theorem need_mapCompleted {α : Type} (f : State → State) (r : Reg) (v : Option α)
    {k k' : α → Host.Outcome State Fault Refusal} (hk : ∀ a, k' a = mapCompleted f (k a)) :
    need r v k' = mapCompleted f (need r v k) := by
  cases v with
  | none => rfl
  | some a => exact hk a

/-- Reading the input is no part of what a change of the completed state reaches. -/
theorem withInput_mapCompleted (f : State → State) (cfg : Config) (s : State)
    {k k' : Bytes → Host.Outcome State Fault Refusal} (hk : ∀ bs, k' bs = mapCompleted f (k bs)) :
    withInput cfg s k' = mapCompleted f (withInput cfg s k) := by
  rw [withInput_eq, withInput_eq]
  refine need_mapCompleted f _ _ fun n => ?_
  split
  · rfl
  · exact need_mapCompleted f _ _ hk

/-! ### `rfu` and `major` (R142, R83) -/

/-- Another header byte in the report, where one is reported. -/
theorem changesFrameParts_mhdr (g : Mhdr → Mhdr) :
    Report.ChangesFrameParts fun r => { r with mhdr := r.mhdr.map g } :=
  ⟨fun _ => rfl, fun _ _ => rfl, fun _ _ => rfl, fun _ _ => rfl, fun _ _ => rfl⟩

theorem runFrameType_reservedFields (t : FrameType) (rfu rfu' : BitVec 3) (major major' : BitVec 2) (s : State) :
    runFrameType ⟨t, rfu', major'⟩ s =
      mapCompleted (State.mapReport fun r => { r with mhdr := r.mhdr.map fun _ => ⟨t, rfu', major'⟩ })
        (runFrameType ⟨t, rfu, major⟩ s) :=
  withInput_mapCompleted _ _ s
    (runFrame_mapReport (changesFrameParts_mhdr _) rfl Config.hw s (fun _ _ => rfl) (fun _ _ => rfl))

/-- Settles O50: each of the eight instructions is `runFrameType` of its frame type. -/
theorem reservedHeaderFieldsDoNotSteer : Obligations.ReservedHeaderFieldsDoNotSteer := by
  unfold Obligations.ReservedHeaderFieldsDoNotSteer
  intro s rfu rfu' major major'
  simp only [List.forall_mem_cons, List.not_mem_nil, false_imp_iff, implies_true, and_true]
  refine ⟨?_, ?_, ?_, ?_, ?_, ?_, ?_, ?_⟩
  all_goals exact runFrameType_reservedFields _ rfu rfu' major major' s

end Sys2Proof.Machine
end

section
/-! Proofs, family 42_mac_commands (spec/42_mac_commands.md), first part: the walk of a command stream, for every
table. -/

namespace Sys2Proof.Machine

/-! ### The walk command by command (R172 to R174) -/

/-- A stop counted from `d` bytes further to the front. -/
def StreamStop.shift (d : Nat) : StreamStop → StreamStop
  | .complete => .complete
  | .unrecognized id pos => .unrecognized id (d + pos)
  | .shortBody id pos => .shortBody id (d + pos)

section

variable (tab : CmdTab) (dir : Direction)

/-- The cursor a walk begins at only moves its stop. -/
theorem walk_add (d n pos : Nat) (rest : Bytes) :
    walk tab dir n (d + pos) rest =
      ⟨(walk tab dir n pos rest).cmds, (walk tab dir n pos rest).stop.shift d⟩ := by
  induction n generalizing pos rest with
  | zero => rfl
  | succ n ih =>
    cases rest with
    | nil => rfl
    | cons id rest =>
      simp only [walk]
      cases tab id dir with
      | none => rfl
      | some row =>
        dsimp only
        split
        · rfl
        · rw [show d + pos + 1 + row.len = d + (pos + 1 + row.len) by omega, ih]

@[simp] theorem macparse_nil : macparse tab [] dir = ⟨[], .complete⟩ := rfl

variable {tab dir}

/-- An identifier without a row stops the walk (R173). -/
theorem macparse_of_no_row {id : Byte} (h : tab id dir = none) (rest : Bytes) :
    macparse tab (id :: rest) dir = ⟨[], .unrecognized id 0⟩ := by
  simp [macparse, walk, h]

/-- A body cut short stops the walk (R174). -/
theorem macparse_of_cut_body {id : Byte} {rest : Bytes} {row : CmdRow} (h : tab id dir = some row)
    (hlen : rest.length < row.len) : macparse tab (id :: rest) dir = ⟨[], .shortBody id 0⟩ := by
  simp [macparse, walk, h, hlen]

/-- A whole command in front of a stream (R172). -/
theorem macparse_command_append {id : Byte} {body : Bytes} {row : CmdRow} (h : tab id dir = some row)
    (hlen : body.length = row.len) (rest : Bytes) :
    macparse tab (id :: body ++ rest) dir =
      ⟨cmdOf row id dir body :: (macparse tab rest dir).cmds,
        (macparse tab rest dir).stop.shift (1 + row.len)⟩ := by
  have hrest : walk tab dir (body ++ rest).length (0 + 1 + row.len) rest =
      ⟨(macparse tab rest dir).cmds, (macparse tab rest dir).stop.shift (1 + row.len)⟩ := by
    rw [walk_bound tab dir (by simp) le_rfl, Nat.zero_add, ← Nat.add_zero (1 + row.len), walk_add]
    rfl
  have htake : (body ++ rest).take row.len = body := List.take_left' hlen
  have hdrop : (body ++ rest).drop row.len = rest := List.drop_left' hlen
  have hwhole : ¬ (body ++ rest).length < row.len := by simp [hlen]
  simp only [macparse, List.cons_append, List.length_cons, walk, h, if_neg hwhole, htake, hdrop, hrest]

end

/-- Settles O32: the four clauses are the equations of `macparse`. -/
theorem macparseFollowsWalk : Obligations.MacparseFollowsWalk := by
  unfold Obligations.MacparseFollowsWalk
  exact fun tab dir => ⟨macparse_nil tab dir, fun _ rest h => macparse_of_no_row h rest,
    fun _ _ _ h hlen => macparse_of_cut_body h hlen, fun _ _ rest _ h hlen => macparse_command_append h hlen rest⟩

/-! ### Every byte up to the stop is read once (R175) -/

/-- The bytes of a stream's commands, identifiers and bodies in order. -/
def CmdStream.bytes (c : CmdStream) : Bytes := c.cmds.flatMap fun k => k.id :: k.body

theorem CmdStream.length_bytes (c : CmdStream) : c.bytes.length = c.consumed := by
  simp [CmdStream.bytes, CmdStream.consumed, List.length_flatMap, Nat.add_comm]

theorem CmdStream.length_cmds_le_consumed (c : CmdStream) : c.cmds.length ≤ c.consumed := by
  simp [CmdStream.consumed]

/-- What a walk leaves where it stops: nothing, an identifier without a row, or one with a body cut short. -/
inductive StopsAt (tab : CmdTab) (dir : Direction) (pos : Nat) : StreamStop → Bytes → Prop
  | complete : StopsAt tab dir pos .complete []
  | unrecognized {id : Byte} (rest : Bytes) (h : tab id dir = none) :
      StopsAt tab dir pos (.unrecognized id pos) (id :: rest)
  | shortBody {id : Byte} {rest : Bytes} {row : CmdRow} (h : tab id dir = some row) (hlen : rest.length < row.len) :
      StopsAt tab dir pos (.shortBody id pos) (id :: rest)

theorem StopsAt.shift {tab : CmdTab} {dir : Direction} {pos : Nat} {stop : StreamStop} {left : Bytes}
    (h : StopsAt tab dir pos stop left) (d : Nat) : StopsAt tab dir (d + pos) (stop.shift d) left := by
  cases h with
  | complete => exact .complete
  | unrecognized rest h => exact .unrecognized rest h
  | shortBody h hlen => exact .shortBody h hlen

/-- Induction over a stream as the walk reads it. -/
theorem macparse_induction (tab : CmdTab) (dir : Direction) {P : Bytes → Prop} (nil : P [])
    (noRow : ∀ id rest, tab id dir = none → P (id :: rest))
    (cutBody : ∀ id rest row, tab id dir = some row → rest.length < row.len → P (id :: rest))
    (command : ∀ id body rest row, tab id dir = some row → body.length = row.len → P rest → P (id :: body ++ rest))
    (s : Bytes) : P s := by
  induction hn : s.length using Nat.strong_induction_on generalizing s with
  | _ n ih =>
    cases s with
    | nil => exact nil
    | cons id rest =>
      cases hrow : tab id dir with
      | none => exact noRow id rest hrow
      | some row =>
        by_cases hlen : rest.length < row.len
        · exact cutBody id rest row hrow hlen
        · have hrest : P (rest.drop row.len) := ih _ (by simp at hn ⊢; omega) _ rfl
          simpa using command id (rest.take row.len) _ row hrow (by simp; omega) hrest

/-- A stream is the bytes of its commands and what the walk leaves where it stops. -/
theorem macparse_bytes_append (tab : CmdTab) (s : Bytes) (dir : Direction) :
    ∃ left, s = (macparse tab s dir).bytes ++ left ∧
      StopsAt tab dir (macparse tab s dir).consumed (macparse tab s dir).stop left := by
  induction s using macparse_induction tab dir with
  | nil => exact ⟨[], rfl, .complete⟩
  | noRow id rest h => rw [macparse_of_no_row h]; exact ⟨_, rfl, .unrecognized rest h⟩
  | cutBody id rest row h hlen => rw [macparse_of_cut_body h hlen]; exact ⟨_, rfl, .shortBody h hlen⟩
  | command id body rest row h hlen ih =>
    obtain ⟨left, hs, hstop⟩ := ih
    rw [macparse_command_append h hlen, CmdStream.consumed_cons _ _ _ (macparse tab rest dir).stop]
    refine ⟨left, ?_, hlen ▸ hstop.shift (1 + row.len)⟩
    conv_lhs => rw [hs]
    simp [CmdStream.bytes, cmdOf]

/-- Settles O33: the rows by `walk_coherentFrom`, the bytes and the stop by `macparse_bytes_append`. -/
theorem macparseConsumesStream : Obligations.MacparseConsumesStream := by
  unfold Obligations.MacparseConsumesStream
  intro tab s dir
  dsimp only
  have hrows : ∀ k ∈ (macparse tab s dir).cmds, ∃ row, tab k.id dir = some row ∧ k = cmdOf row k.id dir k.body ∧
      k.body.length = row.len := (walk_coherentFrom tab dir s.length 0 s).rows
  obtain ⟨left, hs, hstop⟩ := macparse_bytes_append tab s dir
  generalize macparse tab s dir = r at *
  subst hs
  have hlen : (r.bytes ++ left).length = r.consumed + left.length := by rw [List.length_append, r.length_bytes]
  have hfirst : (r.bytes ++ left)[r.consumed]? = left[0]? := by
    rw [← r.length_bytes, List.getElem?_append_right le_rfl, Nat.sub_self]
  refine ⟨(List.take_left' r.length_bytes).symm, by omega, r.length_cmds_le_consumed.trans (by omega),
    fun k hk => ?_, fun h => ?_, fun id pos h => ?_, fun id pos h => ?_⟩
  · obtain ⟨row, hrow, hcmd, hbody⟩ := hrows k hk
    exact ⟨congrArg Cmd.dir hcmd, row, hrow, hbody⟩
  · rw [h] at hstop
    cases hstop
    exact hlen.symm
  · rw [h] at hstop
    cases hstop with
    | unrecognized rest hrow => exact ⟨rfl, hfirst, hrow⟩
  · rw [h] at hstop
    cases hstop with
    | shortBody hrow hcut => exact ⟨rfl, hfirst, _, hrow, by rw [hlen, List.length_cons]; omega⟩

end Sys2Proof.Machine
end

section
/-! Proofs, family 42_mac_commands, second part: MACPARSE, and the 18 commands of the default table as instructions. -/

namespace Sys2Proof.Machine

/-! ### MACPARSE (R172, R269) -/

/-- The report of a walk, with the error of its stop. -/
theorem runMacparse_eq_deliver (cfg : Config) (stream : Bytes) (dir : Direction) (s : State) :
    runMacparse cfg stream dir s = deliver s
      { err := stopErr (macparse cfg.cmdtab stream dir).stop
        report := { stream := some (macparse cfg.cmdtab stream dir), direction := some dir } } [] := by
  rw [runMacparse, noteStop_of_ok rfl]

theorem stopErr_of_isShort {stop : StreamStop} (h : stop.isShort = true) :
    stopErr stop = .malformedLength .cmdBody := by
  cases stop with
  | shortBody id pos => rfl
  | complete | unrecognized id pos => cases h

theorem stopErr_ne_malformedLength {stop : StreamStop} (h : stop.isShort = false) (p : Place) :
    stopErr stop ≠ .malformedLength p := by
  cases stop with
  | shortBody id pos => cases h
  | complete | unrecognized id pos => simp [stopErr]

/-- MACPARSE on its input. -/
theorem exec_macparse_of_hasInput {s : State} {bs : Bytes} {dir : Direction} (hin : s.HasInput bs)
    (hdir : s.dir = some dir.bit) : exec .macparse s = runMacparse Config.hw bs dir s := by
  change opMacparse Config.hw s = _
  rw [opMacparse, withInput_hw hin, withDir_some hdir, ofBit_bit]

/-- Settles O34: a stop is a fault exactly where it is at a cut body. -/
theorem macparseResult : Obligations.MacparseResult := by
  unfold Obligations.MacparseResult
  intro s dir bs hin hdir
  dsimp only
  rw [exec_macparse_of_hasInput hin hdir, runMacparse_eq_deliver]
  exact ⟨fun h => deliver_next (stopErr_ne_malformedLength h) .., fun h => deliver_fault (stopErr_of_isShort h) ..⟩

/-! ### Commands as instructions (log 13) -/

/-- A command instruction is the MACPARSE of its own bytes. -/
theorem exec_of_format_cmd {i : Instr} {dir : Direction} (h : i.format = .cmd dir) (s : State) :
    exec i s = runMacparse Config.hw (encode i) dir s := by
  cases i
  case decode | cipher | macparse | fhdr | mhdr | fctrl | joinreq | joinacc | aesblk | ftJoinrequest | ftJoinaccept
      | ftUnconfirmedup | ftUnconfirmeddown | ftConfirmedup | ftConfirmeddown | ftReserved | ftProprietary =>
    cases h
  all_goals
    cases h
    rfl

/-- Settles O7: what decodes to one command and nothing after it is that command's encoding (O2). -/
theorem macparseRunsCommand : Obligations.MacparseRunsCommand := by
  unfold Obligations.MacparseRunsCommand
  intro s dir bs i hop hdir hin hdec
  obtain ⟨hformat, -, henc⟩ := encodeOfDecodedBytes _ _ _ _ hdec
  have hstep : step s = exec .macparse s := stepRunsDecodedOperation s _ _ hop rfl
  rw [hstep, exec_macparse_of_hasInput hin hdir, exec_of_format_cmd hformat, ← henc, List.append_nil]

/-- A command with a body of its row's length completes with that one command (R172). -/
theorem exec_eq_oneCommand {i : Instr} {dir : Direction} {id : Byte} {body : Bytes} {fields : List (FieldName × Int)}
    (s : State) (row : CmdRow) (hformat : i.format = .cmd dir) (henc : encode i = id :: body)
    (hrow : defaultCmdTab id dir = some row) (hlen : body.length = row.len) (hfields : rowFields row body = fields) :
    exec i s = .next (oneCommand s id dir row.name body fields) := by
  have hwalk : macparse Config.hw.cmdtab (id :: body) dir = ⟨[cmdOf row id dir body], .complete⟩ := by
    simpa [StreamStop.shift] using macparse_command_append (tab := Config.hw.cmdtab) hrow hlen []
  rw [exec_of_format_cmd hformat, henc, runMacparse_eq_deliver, hwalk, ← hfields]
  exact deliver_next (by simp [stopErr]) ..

/-! ### Field values (R176) as bit-vector terms -/

@[simp] theorem fieldValue_u (body : Bytes) (k hi lo : Nat) :
    fieldValue body (.u k hi lo) = uval (byteAt body k) lo (hi - lo + 1) :=
  congrArg Int.ofNat (bits_eq_extract _)

/-- Bits 7..0 are the whole byte. -/
@[simp] theorem uval_byte (b : Byte) : uval b 0 8 = b.toNat := by
  rw [uval, BitVec.extractLsb'_eq_self]

@[simp] theorem fieldValue_s (body : Bytes) (k hi lo : Nat) :
    fieldValue body (.s k hi lo) = ((byteAt body k).extractLsb' lo (hi - lo + 1)).toInt := by
  rw [fieldValue, bits_eq_extract, sext_toNat (Nat.succ_pos _)]

/-- A little-endian number fits in the bits of its bytes. -/
theorem le_eq_toNat {w : Nat} {v : BitVec w} {bs : Bytes} (hw : w = 8 * bs.length) (h : BitVec.ofNat w (le bs) = v) :
    le bs = v.toNat := by
  have hlt : le bs < 2 ^ w := by rw [hw, Nat.pow_mul]; exact le_lt bs
  rw [← h, BitVec.toNat_ofNat, Nat.mod_eq_of_lt hlt]

theorem ofNat_le_triple (b0 b1 b2 : Byte) : BitVec.ofNat 24 (le [b0, b1, b2]) = b2 ++ b1 ++ b0 := by
  rw [ofNat_le_cons 16, ofNat_le_pair]

/-- The channel mask stands in body bytes 1 and 2 (R191). -/
@[simp] theorem fieldValue_ule_one_two (b0 b1 b2 : Byte) (rest : Bytes) :
    fieldValue (b0 :: b1 :: b2 :: rest) (.ule 1 2) = (b2 ++ b1 : BitVec 16).toNat :=
  congrArg Int.ofNat (le_eq_toNat rfl (ofNat_le_pair b1 b2))

/-- A frequency stands in body bytes 1 to 3 (R193, R195, R198). -/
@[simp] theorem fieldValue_freq_one (b0 b1 b2 b3 : Byte) (rest : Bytes) :
    fieldValue (b0 :: b1 :: b2 :: b3 :: rest) (.freq 1) = ((b3 ++ b2 ++ b1 : BitVec 24).toNat : Int) * 100 :=
  congrArg (fun n : Nat => (n : Int) * 100) (le_eq_toNat rfl (ofNat_le_triple b1 b2 b3))

/-! ### The 18 rows (R181 to R198) -/

/-- Settles O36: each command by its row, the field values by the rules of their primitives. -/
theorem uplinkCommandResults : Obligations.UplinkCommandResults := by
  unfold Obligations.UplinkCommandResults
  intro s b c
  refine ⟨exec_eq_oneCommand s rowLinkCheckReq rfl rfl rfl rfl rfl,
    exec_eq_oneCommand s rowLinkADRAns rfl rfl rfl rfl ?_,
    exec_eq_oneCommand s rowDutyCycleAns rfl rfl rfl rfl rfl,
    exec_eq_oneCommand s rowRXParamSetupAns rfl rfl rfl rfl ?_,
    exec_eq_oneCommand s rowDevStatusAns rfl rfl rfl rfl ?_,
    exec_eq_oneCommand s rowNewChannelAns rfl rfl rfl rfl ?_,
    exec_eq_oneCommand s rowRXTimingSetupAns rfl rfl rfl rfl rfl,
    exec_eq_oneCommand s rowTxParamSetupAns rfl rfl rfl rfl rfl,
    exec_eq_oneCommand s rowDlChannelAns rfl rfl rfl rfl ?_⟩
  all_goals simp [rowFields, rowLinkADRAns, rowRXParamSetupAns, rowDevStatusAns, rowNewChannelAns,
    rowDlChannelAns, byteAt]

/-- Settles O37: each command by its row, the field values by the rules of their primitives. -/
theorem downlinkCommandResults : Obligations.DownlinkCommandResults := by
  unfold Obligations.DownlinkCommandResults
  intro s b c d e f
  refine ⟨exec_eq_oneCommand s rowLinkCheckAns rfl rfl rfl rfl ?_,
    exec_eq_oneCommand s rowLinkADRReq rfl rfl rfl rfl ?_,
    exec_eq_oneCommand s rowDutyCycleReq rfl rfl rfl rfl ?_,
    exec_eq_oneCommand s rowRXParamSetupReq rfl rfl rfl rfl ?_,
    exec_eq_oneCommand s rowDevStatusReq rfl rfl rfl rfl rfl,
    exec_eq_oneCommand s rowNewChannelReq rfl rfl rfl rfl ?_,
    exec_eq_oneCommand s rowRXTimingSetupReq rfl rfl rfl rfl ?_,
    exec_eq_oneCommand s rowTxParamSetupReq rfl rfl rfl rfl ?_,
    exec_eq_oneCommand s rowDlChannelReq rfl rfl rfl rfl ?_⟩
  all_goals simp [rowFields, rowLinkCheckAns, rowLinkADRReq, rowDutyCycleReq, rowRXParamSetupReq, rowNewChannelReq,
    rowRXTimingSetupReq, rowTxParamSetupReq, rowDlChannelReq, byteAt]

end Sys2Proof.Machine
end

section
/-! Proofs, family 43_frame_decoder (spec/43_frame_decoder.md), first part: join bodies, truncated frames, and the
frames that carry no data part. -/

namespace Sys2Proof.Machine

/-! ### Join bodies (R224, R226) -/

theorem ofNat_le_octet (b0 b1 b2 b3 b4 b5 b6 b7 : Byte) :
    BitVec.ofNat 64 (le [b0, b1, b2, b3, b4, b5, b6, b7]) = b7 ++ b6 ++ b5 ++ b4 ++ b3 ++ b2 ++ b1 ++ b0 := by
  rw [ofNat_le_cons 56, ofNat_le_cons 48, ofNat_le_cons 40, ofNat_le_cons 32, ofNat_le_quad]

/-- A join-request body by its map (R61). -/
theorem joinreq_eighteen_bytes (a0 a1 a2 a3 a4 a5 a6 a7 d0 d1 d2 d3 d4 d5 d6 d7 n0 n1 : Byte) :
    joinreq [a0, a1, a2, a3, a4, a5, a6, a7, d0, d1, d2, d3, d4, d5, d6, d7, n0, n1] =
      some { appId := a7 ++ a6 ++ a5 ++ a4 ++ a3 ++ a2 ++ a1 ++ a0
             devId := d7 ++ d6 ++ d5 ++ d4 ++ d3 ++ d2 ++ d1 ++ d0
             devNonce := [n0, n1] } := by
  rw [← ofNat_le_octet a0, ← ofNat_le_octet d0]
  rfl

theorem joinreq_of_length_ne {body : Bytes} (h : body.length ≠ 18) : joinreq body = none := if_neg h

/-- A join-accept body by its map (R62): the channel list is what follows the fixed twelve bytes. -/
theorem joinacc_twelve_bytes_append (a0 a1 a2 n0 n1 n2 d0 d1 d2 d3 dl rx : Byte) {list : Bytes}
    (h : list.length = 0 ∨ list.length = 16) :
    joinacc ([a0, a1, a2, n0, n1, n2, d0, d1, d2, d3, dl, rx] ++ list) =
      some { appNonce := a2 ++ a1 ++ a0, netId := n2 ++ n1 ++ n0, devAddr := d3 ++ d2 ++ d1 ++ d0
             dlSettings := dl, rxDelay := rx, cflist := if list = [] then none else some list } := by
  have hlength : ([a0, a1, a2, n0, n1, n2, d0, d1, d2, d3, dl, rx] ++ list).length = 12 + list.length :=
    List.length_append
  have hcflist : (if 12 + list.length = 28 then
      some (slice ([a0, a1, a2, n0, n1, n2, d0, d1, d2, d3, dl, rx] ++ list) 12 28) else none) =
      if list = [] then none else some list := by
    rcases h with h | h
    · simp [List.length_eq_zero_iff.mp h]
    · have hlist : list ≠ [] := List.ne_nil_of_length_pos (by omega)
      rw [if_pos (by omega), if_neg hlist]
      exact congrArg some (List.take_of_length_le h.le)
  rw [joinacc, if_pos (by omega), hlength, hcflist, ← ofNat_le_triple a0, ← ofNat_le_triple n0, ← ofNat_le_quad d0]
  rfl

theorem joinacc_of_length_ne {body : Bytes} (h12 : body.length ≠ 12) (h28 : body.length ≠ 28) : joinacc body = none :=
  if_neg (by simp [h12, h28])

theorem joinreqInto_of_some {body : Bytes} {j : JoinReq} (h : joinreq body = some j) (w : Work) :
    joinreqInto body w = .goesOn { w with report := { w.report with joinreq := some j } } := by
  simp [joinreqInto, h]

theorem joinreqInto_of_none {body : Bytes} (h : joinreq body = none) (w : Work) :
    joinreqInto body w = raise (.malformedLength .joinreq) w := by
  simp [joinreqInto, h]

theorem joinaccInto_of_some {body : Bytes} {j : JoinAcc} (h : joinacc body = some j) (w : Work) :
    joinaccInto body w = .goesOn { w with report := { w.report with joinacc := some j } } := by
  simp [joinaccInto, h]

theorem joinaccInto_of_none {body : Bytes} (h : joinacc body = none) (w : Work) :
    joinaccInto body w = raise (.malformedLength .joinacc) w := by
  simp [joinaccInto, h]

/-- JOINREQ on its input. -/
theorem exec_joinreq_of_hasInput {s : State} {bs : Bytes} (h : s.HasInput bs) :
    exec .joinreq s = deliver s (joinreqInto bs {}).work [] := withInput_hw h _

/-- Settles O38: the fields of a body of 18 bytes by `joinreq_eighteen_bytes`; there are none of any other. -/
theorem joinreqResult : Obligations.JoinreqResult := by
  unfold Obligations.JoinreqResult
  refine ⟨fun s a0 a1 a2 a3 a4 a5 a6 a7 d0 d1 d2 d3 d4 d5 d6 d7 n0 n1 hin => ?_, fun s bs hin hlen => ?_⟩
  · rw [exec_joinreq_of_hasInput hin, joinreqInto_of_some (joinreq_eighteen_bytes ..)]
    exact deliver_next (by simp [Flow.work]) ..
  · rw [exec_joinreq_of_hasInput hin, joinreqInto_of_none (joinreq_of_length_ne hlen)]
    exact deliver_fault rfl ..

theorem exec_joinacc_of_some {s : State} {bs : Bytes} {j : JoinAcc} (h : s.HasInput bs) (hj : joinacc bs = some j) :
    exec .joinacc s =
      .next (complete s { report := { direction := some .downlink, joinacc := some j } } []) := by
  change opJoinacc Config.hw s = _
  rw [opJoinacc, withInput_hw h, joinaccInto_of_some hj]
  exact deliver_next (by simp) ..

theorem exec_joinacc_of_none {s : State} {bs : Bytes} (h : s.HasInput bs) (hj : joinacc bs = none) :
    exec .joinacc s = .fault (.malformedLength .joinacc (complete s { err := .malformedLength .joinacc } [])) := by
  change opJoinacc Config.hw s = _
  rw [opJoinacc, withInput_hw h, joinaccInto_of_none hj]
  exact deliver_fault rfl ..

/-- Settles O39: the fields of both forms by `joinacc_twelve_bytes_append`; there are none of any other length. -/
theorem joinaccResult : Obligations.JoinaccResult := by
  unfold Obligations.JoinaccResult
  exact ⟨fun s a0 a1 a2 n0 n1 n2 d0 d1 d2 d3 dl rx list hlist hin =>
      exec_joinacc_of_some hin (joinacc_twelve_bytes_append _ _ _ _ _ _ _ _ _ _ _ _ hlist),
    fun s bs hin h12 h28 => exec_joinacc_of_none hin (joinacc_of_length_ne h12 h28)⟩

/-! ### Truncated frames (R221) -/

/-- Below five bytes the header byte makes no difference. -/
theorem runFrame_truncated (cfg : Config) (s : State) (m : Mhdr) {F : Bytes} (h : F.length < 5) :
    runFrame cfg s m F = .next (complete s { err := .truncatedFrame } []) := by
  rw [runFrame, if_pos h, raise_work, note_of_ok rfl]
  exact deliver_next (by simp) ..

/-- Settles O40: DECODE is `runFrame` on its input. -/
theorem truncatedFrameResult : Obligations.TruncatedFrameResult := by
  unfold Obligations.TruncatedFrameResult
  intro s F hin hlen
  rw [exec_decode_eq_runFrame hin, runFrame_truncated _ _ _ hlen]

/-! ### The frame type of a header byte (R220, R223) -/

/-- A frame type as an instruction runs the frame in `IN` under a header of that type. -/
theorem exec_frameOfType (rfu : BitVec 3) (major : BitVec 2) (s : State) :
    ∀ n, exec (frameOfType n rfu major) s = runFrameType ⟨frameTypeOf n, rfu, major⟩ s
  | 0 | 1 | 2 | 3 | 4 | 5 | 6 => rfl
  | _ + 7 => rfl

/-- DECODE is the instruction of the frame type that the header byte names. -/
theorem exec_decode_eq_frameOfType {s : State} {ft rfu : BitVec 3} {major : BitVec 2} {rest : Bytes}
    (h : s.HasInput (headerByte ft rfu major :: rest)) :
    exec .decode s = exec (frameOfType ft.toNat rfu major) s := by
  rw [exec_decode_of_hasInput h, exec_frameOfType, runFrameType, withInput_hw h]
  rfl

/-- A truncated frame decodes alike under every header. -/
theorem runFrameType_truncated {s : State} {F : Bytes} (hin : s.HasInput F) (hlen : F.length < 5) (m : Mhdr) :
    runFrameType m s = .next (complete s { err := .truncatedFrame } []) := by
  rw [runFrameType, withInput_hw hin, runFrame_truncated _ _ _ hlen]

/-- Settles O6: every first byte is the header byte of its own three fields, and DECODE runs the type they name. -/
theorem decodeRunsFrameTypeOfHeader : Obligations.DecodeRunsFrameTypeOfHeader := by
  unfold Obligations.DecodeRunsFrameTypeOfHeader
  refine ⟨fun s F rest i hop hin hdec => ?_, fun s F rfu major hin hlen => ?_⟩
  · have hstep : step s = exec .decode s := stepRunsDecodedOperation s _ _ hop rfl
    cases F with
    | nil => cases hdec
    | cons b F =>
      rw [← headerByte_extract b] at hin hdec
      rw [decode_headerByte] at hdec
      cases hdec
      rw [hstep, exec_decode_eq_frameOfType hin]
  · simp only [List.forall_mem_cons, List.not_mem_nil, false_imp_iff, implies_true, and_true]
    refine ⟨?_, ?_, ?_, ?_, ?_, ?_, ?_, ?_⟩
    all_goals exact runFrameType_truncated hin hlen _

/-! ### Frames by their branch (R222, R223) -/

section

variable {s : State} {ft rfu : BitVec 3} {major : BitVec 2} {body tag : Bytes} {w : Work}
  (hin : s.HasInput ((ft ++ rfu ++ major) :: body ++ tag)) (ht : tag.length = 4)
  (hw : branch Config.hw s (frameTypeOf ft.toNat) body
    (frameStart ⟨frameTypeOf ft.toNat, rfu, major⟩ body tag) = .ok w)
include hin ht hw

/-- A frame as an instruction and under DECODE, by what its branch works out. -/
theorem exec_frame_of_branch :
    exec (frameOfType ft.toNat rfu major) s = deliver s w [] ∧ exec .decode s = deliver s w [] := by
  have hframe : runFrame Config.hw s ⟨frameTypeOf ft.toNat, rfu, major⟩ ((ft ++ rfu ++ major) :: body ++ tag) =
      deliver s w [] := by rw [runFrame_append _ _ _ _ _ ht, hw]
  have hdecode : exec .decode s = deliver s w [] := (exec_decode_of_hasInput hin).trans hframe
  exact ⟨(exec_decode_eq_frameOfType hin).symm.trans hdecode, hdecode⟩

theorem exec_frame_next (he : ∀ p, w.err ≠ .malformedLength p) :
    exec (frameOfType ft.toNat rfu major) s = .next (complete s w []) ∧
      exec .decode s = .next (complete s w []) := by
  rw [← deliver_next he]
  exact exec_frame_of_branch hin ht hw

theorem exec_frame_fault {p : Place} (he : w.err = .malformedLength p) :
    exec (frameOfType ft.toNat rfu major) s = .fault (.malformedLength p (complete s w [])) ∧
      exec .decode s = .fault (.malformedLength p (complete s w [])) := by
  rw [← deliver_fault he]
  exact exec_frame_of_branch hin ht hw

end

/-- A branch that raises, on a frame that has recorded nothing yet. -/
theorem ok_raise_frameStart (e : Err) (m : Mhdr) (body tag : Bytes) :
    (Except.ok (raise e (frameStart m body tag)).work : Except Refusal Work) =
      .ok { frameStart m body tag with err := e } := congrArg Except.ok (note_of_ok rfl e)

/-- Settles O42: the two join branches with a body that decodes, and with one that does not. -/
theorem joinFrameResults : Obligations.JoinFrameResults := by
  unfold Obligations.JoinFrameResults
  refine ⟨fun s rfu major body tag j hin ht hj => ?_, fun s rfu major body tag j hin ht hj => ?_,
    fun s rfu major body tag hin ht hlen => ?_, fun s rfu major body tag hin ht h12 h28 => ?_⟩
  · exact exec_frame_next hin ht (congrArg (Except.ok ∘ Flow.work) (joinreqInto_of_some hj _)) nofun
  · exact exec_frame_next hin ht (congrArg (Except.ok ∘ Flow.work) (joinaccInto_of_some hj _)) nofun
  · exact exec_frame_fault hin ht ((congrArg (Except.ok ∘ Flow.work)
      (joinreqInto_of_none (joinreq_of_length_ne hlen) _)).trans (ok_raise_frameStart ..)) rfl
  · exact exec_frame_fault hin ht ((congrArg (Except.ok ∘ Flow.work)
      (joinaccInto_of_none (joinacc_of_length_ne h12 h28) _)).trans (ok_raise_frameStart ..)) rfl

/-- Settles O43: the branches of the two types raise at once. -/
theorem unsupportedFrameResults : Obligations.UnsupportedFrameResults := by
  unfold Obligations.UnsupportedFrameResults
  intro s rfu major body tag ht
  exact ⟨fun hin => exec_frame_next hin ht (ok_raise_frameStart ..) nofun,
    fun hin => exec_frame_next hin ht (ok_raise_frameStart ..) nofun⟩

end Sys2Proof.Machine
end

section
/-! Proofs, family 43_frame_decoder, second part: data frames with all their inline commands, by the class of what
follows them. -/

namespace Sys2Proof.Machine

/-! ### The cipher's operands (R236) -/

theorem numByte_toNat (v : BitVec 32) (k : Nat) : numByte v.toNat k = v.extractLsb' (8 * k) 8 := by
  apply BitVec.eq_of_toNat_eq
  rw [numByte, BitVec.toNat_ofNat, BitVec.extractLsb'_toNat, Nat.shiftRight_eq_div_pow, Nat.pow_mul]

/-- Most significant byte first: the byte extracts from the top. -/
theorem tobe4_eq_extract (v : BitVec 32) :
    tobe4 v = #v[v.extractLsb' 24 8, v.extractLsb' 16 8, v.extractLsb' 8 8, v.extractLsb' 0 8] := by
  have h3 := numByte_toNat v 3
  have h2 := numByte_toNat v 2
  have h1 := numByte_toNat v 1
  have h0 := numByte_toNat v 0
  rw [← h3, ← h2, ← h1, ← h0]
  rfl

theorem tobe4_append_halves (x y : BitVec 16) :
    tobe4 (x ++ y) = #v[x.extractLsb' 8 8, x.extractLsb' 0 8, y.extractLsb' 8 8, y.extractLsb' 0 8] := by
  rw [tobe4_eq_extract, BitVec.extractLsb'_append_eq_of_le (start := 24) (by omega),
    BitVec.extractLsb'_append_eq_of_le (start := 16) (by omega),
    BitVec.extractLsb'_append_eq_of_add_le (start := 8) (by omega),
    BitVec.extractLsb'_append_eq_of_add_le (start := 0) (by omega)]

/-- The address of a frame (R152). -/
theorem tobe4_append_bytes (b3 b2 b1 b0 : Byte) : tobe4 (b3 ++ b2 ++ b1 ++ b0) = #v[b3, b2, b1, b0] := by
  have h3 : (b3 ++ b2 ++ b1 ++ b0).extractLsb' 24 8 = b3 := by
    repeat rw [BitVec.extractLsb'_append_eq_of_le (by omega)]
    exact BitVec.extractLsb'_eq_self
  have h2 : (b3 ++ b2 ++ b1 ++ b0).extractLsb' 16 8 = b2 := by
    repeat rw [BitVec.extractLsb'_append_eq_of_le (by omega)]
    exact BitVec.extractLsb'_append_eq_right
  have h1 : (b3 ++ b2 ++ b1 ++ b0).extractLsb' 8 8 = b1 := by
    rw [BitVec.extractLsb'_append_eq_of_le (by omega)]
    exact BitVec.extractLsb'_append_eq_right
  have h0 : (b3 ++ b2 ++ b1 ++ b0).extractLsb' 0 8 = b0 := BitVec.extractLsb'_append_eq_right
  rw [tobe4_eq_extract, h3, h2, h1, h0]

/-- The 32-bit counter of a frame (R152, R97). -/
theorem tobe4_counter (hi : BitVec 16) (c1 c0 : Byte) :
    tobe4 (hi ++ (c1 ++ c0)) = #v[hi.extractLsb' 8 8, hi.extractLsb' 0 8, c1, c0] := by
  have h1 : (c1 ++ c0).extractLsb' 8 8 = c1 := BitVec.extractLsb'_append_eq_left
  have h0 : (c1 ++ c0).extractLsb' 0 8 = c0 := BitVec.extractLsb'_append_eq_right
  rw [tobe4_append_halves, h1, h0]

/-- The plaintext of a frame (R236): address and counter most significant byte first, as `ORCH_ORDER` host says. -/
theorem frmPlainOf_headerReport {s : State} {key : Option Block} {K : Block} {be : Bit} (hkey : key = some K)
    (hbe : s.be = some be) (reg : Reg) (dir : Direction) (a0 a1 a2 a3 fc c0 c1 port : Byte) (fopts frm : Bytes) :
    frmPlainOf Config.hw s reg key dir (headerReport s.fcntHi dir a0 a1 a2 a3 fc c0 c1 fopts (port :: frm)) =
      .ok (frmCipher Config.hw.aes128 K dir.bit #v[a3, a2, a1, a0]
        #v[s.fcntHi.extractLsb' 8 8, s.fcntHi.extractLsb' 0 8, c1, c0] be frm) := by
  rw [← tobe4_append_bytes, ← tobe4_counter, hkey]
  simp only [frmPlainOf, hbe]
  rfl

/-! ### The payload step by the class of the port (R234) -/

theorem tailClass_of_app_port {port : Byte} (h0 : port ≠ 0) (h224 : port ≠ 224) (fopts frm : Bytes) :
    tailClass fopts (port :: frm) = .appData := by
  rw [tailClass_of_port fun h => h0 h.1, portClass, if_neg h224, if_neg h0]

section

variable {cfg : Config} {s : State} {dir : Direction} {w : Work} {d : DataReport} (hd : w.report.data = some d)
include hd

theorem payloadStep_of_commands (hcls : d.frmClass = some .commands) :
    payloadStep cfg s dir w = commandsStep cfg s dir d w := by
  simp only [payloadStep, hd, hcls]

theorem payloadStep_of_appData (hcls : d.frmClass = some .appData) :
    payloadStep cfg s dir w = appDataStep cfg s dir d w := by
  simp only [payloadStep, hd, hcls]

/-- Without a class that calls for a present key there is nothing to do (R235, R239). -/
theorem payloadStep_of_no_cipher (hcmds : d.frmClass = some .commands → s.keyNwkV = 0)
    (happ : d.frmClass = some .appData → s.keyAppV = 0) : payloadStep cfg s dir w = .ok w := by
  unfold payloadStep
  simp only [hd]
  split
  · next h => simp [commandsStep, hcmds h]
  · next h => simp [appDataStep, happ h]
  all_goals rfl

end

section

variable {cfg : Config} {s : State} {dir : Direction} {d : DataReport} {plain : Bytes} (w : Work)

/-- Port 0 with the network key: the plaintext and its walk (R237). -/
theorem commandsStep_of_plain (hv : s.keyNwkV = 1) (hp : frmPlainOf cfg s .keyNwk s.keyNwk dir d = .ok plain) :
    commandsStep cfg s dir d w =
      .ok ((w.setData { d with frmPlain := some plain, frmCmds := some (macparse cfg.cmdtab plain dir) }).noteStop
        (macparse cfg.cmdtab plain dir).stop) := by
  rw [commandsStep_eq_map, if_pos hv, hp]
  rfl

/-- An application port with the application key: the plaintext (R238). -/
theorem appDataStep_of_plain (hv : s.keyAppV = 1) (hp : frmPlainOf cfg s .keyApp s.keyApp dir d = .ok plain) :
    appDataStep cfg s dir d w = .ok (w.setData { d with frmPlain := some plain }) := by
  rw [appDataStep_eq_map, if_pos hv, hp]
  rfl

end

/-! ### Data frames with all their inline commands (R228, R229, R232, R233) -/

/-- A data frame whose error is MalformedLength exactly where a stream is cut short is a fault exactly there (R266). -/
theorem IsDataFrame.exec_of_stop {ft : BitVec 3} {t : FrameType} {dir : Direction} {mk : BitVec 3 → BitVec 2 → Instr}
    (h : IsDataFrame ft t dir mk) {s : State} {rfu : BitVec 3} {major : BitVec 2} {body tag : Bytes}
    (hin : s.HasInput ((ft ++ rfu ++ major) :: body ++ tag)) (ht : tag.length = 4) {w : Work}
    (hw : dataFrame Config.hw s dir body (frameStart ⟨t, rfu, major⟩ body tag) = .ok w) {stop : StreamStop}
    (hnext : stop.isShort = false → ∀ p, w.err ≠ .malformedLength p)
    (hfault : stop.isShort = true → w.err = .malformedLength .cmdBody) :
    let after := complete s w []
    (stop.isShort = false →
      Machine.exec (mk rfu major) s = .next after ∧ Machine.exec .decode s = .next after) ∧
    (stop.isShort = true →
      Machine.exec (mk rfu major) s = .fault (.malformedLength .cmdBody after) ∧
        Machine.exec .decode s = .fault (.malformedLength .cmdBody after)) := by
  have hrun := h.exec_of_ok hin ht hw
  refine ⟨fun hs => ?_, fun hs => ?_⟩
  · rwa [deliver_next (hnext hs)] at hrun
  · rwa [deliver_fault (hfault hs)] at hrun

/-- A data frame after FHDR: a conflict ends it, and the payload step follows otherwise (R155, R234). -/
theorem dataFrame_dataBody {s : State} {dir : Direction} {w : Work} (hw : w.err = .ok) (a0 a1 a2 a3 c0 c1 : Byte)
    {fc : Byte} {fopts : Bytes} (tail : Bytes) (hfc : (fc.extractLsb' 0 4).toNat = fopts.length) :
    let after := headerWork s.fcntHi dir a0 a1 a2 a3 fc c0 c1 fopts tail w.report
    dataFrame Config.hw s dir (dataBody a0 a1 a2 a3 fc c0 c1 fopts tail) w =
      if tailClass fopts tail = .conflict then .ok after else payloadStep Config.hw s dir after := by
  rw [dataFrame, fhdr_dataBody s.fcntHi hw a0 a1 a2 a3 c0 c1 tail hfc]
  by_cases hconf : tailClass fopts tail = .conflict
  · simp only [if_pos hconf]
  · simp only [if_neg hconf]

/-- Settles O44: neither a conflict nor a class whose key is absent changes what FHDR worked out. -/
theorem dataFrameWithoutCipher : Obligations.DataFrameWithoutCipher := by
  unfold Obligations.DataFrameWithoutCipher
  refine forDataFrames_of_isDataFrame fun ft t dir mk h => ?_
  intro s rfu major a0 a1 a2 a3 fc c0 c1 fopts tail tag body hin ht hfc hnwk happ
  have hw : dataFrame Config.hw s dir body (frameStart ⟨t, rfu, major⟩ body tag) =
      .ok (headerWork s.fcntHi dir a0 a1 a2 a3 fc c0 c1 fopts tail
        (frameStart ⟨t, rfu, major⟩ body tag).report) := by
    rw [dataFrame_dataBody rfl a0 a1 a2 a3 c0 c1 _ hfc, ite_eq_left_iff]
    exact fun _ => payloadStep_of_no_cipher rfl (hnwk ∘ Option.some.inj) (happ ∘ Option.some.inj)
  exact h.exec_of_stop hin ht hw (headerErr_ne_malformedLength tail) (headerErr_of_isShort tail)

/-- Settles O46: the class of such a port is application data, and its step adds the plaintext. -/
theorem dataFrameAppData : Obligations.DataFrameAppData := by
  unfold Obligations.DataFrameAppData
  refine forDataFrames_of_isDataFrame fun ft t dir mk h => ?_
  intro s rfu major a0 a1 a2 a3 fc c0 c1 port fopts frm tag K be body hin ht hfc hport0 hport224 hv hkey hbe plain d
  have hcls : tailClass fopts (port :: frm) = .appData := tailClass_of_app_port hport0 hport224 fopts frm
  have hconf : tailClass fopts (port :: frm) ≠ .conflict := by rw [hcls]; nofun
  have hw : dataFrame Config.hw s dir body (frameStart ⟨t, rfu, major⟩ body tag) =
      .ok { err := headerErr dir fopts (port :: frm), report := frameReport body tag ⟨t, rfu, major⟩ dir d } := by
    rw [dataFrame_dataBody rfl a0 a1 a2 a3 c0 c1 _ hfc, if_neg hconf,
      payloadStep_of_appData rfl (congrArg some hcls),
      appDataStep_of_plain _ hv (frmPlainOf_headerReport hkey hbe ..)]
    rfl
  exact h.exec_of_stop hin ht hw (headerErr_ne_malformedLength _) (headerErr_of_isShort _)

/-- Settles O47: port 0 without inline commands has the class of body commands and no error before their walk. -/
theorem dataFrameBodyCommands : Obligations.DataFrameBodyCommands := by
  unfold Obligations.DataFrameBodyCommands
  refine forDataFrames_of_isDataFrame fun ft t dir mk h => ?_
  intro s rfu major a0 a1 a2 a3 fc c0 c1 frm tag K be body hin ht hfc hv hkey hbe plain cmds d
  have hcls : tailClass [] (0 :: frm) = .commands := rfl
  have hconf : tailClass [] (0 :: frm) ≠ .conflict := nofun
  have hlen : (fc.extractLsb' 0 4).toNat = ([] : Bytes).length := congrArg BitVec.toNat hfc
  have hw : dataFrame Config.hw s dir body (frameStart ⟨t, rfu, major⟩ body tag) =
      .ok { err := stopErr cmds.stop, report := frameReport body tag ⟨t, rfu, major⟩ dir d } := by
    rw [dataFrame_dataBody rfl a0 a1 a2 a3 c0 c1 _ hlen, if_neg hconf,
      payloadStep_of_commands rfl (congrArg some hcls),
      commandsStep_of_plain _ hv (frmPlainOf_headerReport hkey hbe ..), noteStop_of_ok rfl]
    rfl
  exact h.exec_of_stop hin ht hw stopErr_ne_malformedLength stopErr_of_isShort

end Sys2Proof.Machine
end

section
/-! Proofs, family 43_frame_decoder, third part: what holds of every frame, whatever its branch. -/

namespace Sys2Proof.Machine

/-! ### The split and the header byte (R222, R143) -/

/-- A branch writes neither the split nor the header byte: it does not see a change that puts them back. -/
theorem branch_keeps_frameParts {cfg : Config} {s : State} {ft : FrameType} {body : Bytes} {w w' : Work}
    (h : branch cfg s ft body w = .ok w') :
    w'.report.body = w.report.body ∧ w'.report.tag = w.report.tag ∧ w'.report.mhdr = w.report.mhdr := by
  have hf : Report.ChangesFrameParts fun r =>
      { r with body := w.report.body, tag := w.report.tag, mhdr := w.report.mhdr } :=
    ⟨fun _ => rfl, fun _ _ => rfl, fun _ _ => rfl, fun _ _ => rfl, fun _ _ => rfl⟩
  have hback := hf.branch w cfg s ft body
  rw [show w.mapReport _ = w from rfl, h] at hback
  have hw' := Except.ok.inj hback
  exact ⟨congrArg (·.report.body) hw', congrArg (·.report.tag) hw', congrArg (·.report.mhdr) hw'⟩

/-- The header byte's fields are its bit ranges (R143). -/
theorem mhdr_eq_extract (b : Byte) :
    mhdr b = ⟨frameTypeOf (b.extractLsb' 5 3).toNat, b.extractLsb' 2 3, b.extractLsb' 0 2⟩ := by
  rw [← mhdr_append]
  exact congrArg mhdr (headerByte_extract b).symm

/-- Settles O41: the branch starts from the split and the header byte, and keeps them. -/
theorem splitAlwaysReported : Obligations.SplitAlwaysReported := by
  unfold Obligations.SplitAlwaysReported
  intro s t h body tag hin ht hcompleted
  have hbyte : byteAt (h :: body ++ tag) 0 = h := rfl
  rw [exec_decode_eq_runFrame hin, hbyte, runFrame_append _ _ _ _ _ ht, mhdr_eq_extract] at hcompleted
  split at hcompleted
  · exact absurd hcompleted (not_completedIn_refused _ _)
  · next w hw =>
    rw [completedIn_deliver hcompleted]
    exact ⟨w.report, rfl, branch_keeps_frameParts hw⟩

/-! ### Confirmed frames (R241) -/

theorem runFrameType_ftype (t t' : FrameType)
    (hbranch : ∀ s body w, branch Config.hw s t' body w = branch Config.hw s t body w)
    (hdir : direction t' = direction t) (rfu : BitVec 3) (major : BitVec 2) (s : State) :
    runFrameType ⟨t', rfu, major⟩ s =
      mapCompleted (State.mapReport fun r => { r with mhdr := r.mhdr.map fun h => { h with ftype := t' } })
        (runFrameType ⟨t, rfu, major⟩ s) := by
  refine withInput_mapCompleted _ _ s (runFrame_mapReport (changesFrameParts_mhdr _) rfl Config.hw s (hbranch s) ?_)
  intro body tag
  simp only [frameStart, hdir]
  rfl

/-- Settles O51: a confirmed type has the branch and the direction of the unconfirmed one. -/
theorem confirmedLikeUnconfirmed : Obligations.ConfirmedLikeUnconfirmed := by
  unfold Obligations.ConfirmedLikeUnconfirmed
  intro s rfu major
  exact ⟨runFrameType_ftype .unconfirmedUp .confirmedUp (fun _ _ _ => rfl) rfl rfu major s,
    runFrameType_ftype .unconfirmedDown .confirmedDown (fun _ _ _ => rfl) rfl rfu major s⟩

/-! ### The tag (R240) -/

/-- Another tag in the report, where one is reported. -/
def Report.withTag (tag : Bytes) (r : Report) : Report := { r with tag := r.tag.map fun _ => tag }

theorem changesFrameParts_withTag (tag : Bytes) : Report.ChangesFrameParts (Report.withTag tag) :=
  ⟨fun _ => rfl, fun _ _ => rfl, fun _ _ => rfl, fun _ _ => rfl, fun _ _ => rfl⟩

/-- The state after a DECODE of the same frame with another tag, which stands in another buffer. -/
def State.withTag (m : Memory) (tag : Bytes) (t : State) : State :=
  { t.mapReport (Report.withTag tag) with inBuf := some m }

/-- The branch reads the body it is given and not `IN`. -/
theorem branch_inBuf (cfg : Config) (s : State) (m : Option Memory) (ft : FrameType) (body : Bytes) (w : Work) :
    branch cfg { s with inBuf := m } ft body w = branch cfg s ft body w := by
  cases ft <;> rfl

/-- Delivering in another state: where the completed states differ by a change, so do the outcomes. -/
theorem deliver_eq_mapCompleted {s s' : State} {w w' : Work} {out : Bytes} {f : State → State} (he : w'.err = w.err)
    (hf : complete s' w' out = f (complete s w out)) : deliver s' w' out = mapCompleted f (deliver s w out) := by
  by_cases hm : ∃ p, w.err = .malformedLength p
  · obtain ⟨p, hp⟩ := hm
    rw [deliver_fault hp, deliver_fault (he.trans hp), mapCompleted, hf]
  · have hn : ∀ p, w.err ≠ .malformedLength p := not_exists.mp hm
    rw [deliver_next hn, deliver_next (he ▸ hn), mapCompleted, hf]

/-- The frame with the other tag: a truncated one reports no tag, and a longer one the same but for it. -/
theorem runFrame_withTag (cfg : Config) (s : State) (m : Memory) (h : Mhdr) (b : Byte) (body : Bytes)
    {tag tag' : Bytes} (ht : tag.length = 4) (ht' : tag'.length = 4) :
    runFrame cfg { s with inBuf := some m } h (b :: body ++ tag') =
      mapCompleted (State.withTag m tag') (runFrame cfg s h (b :: body ++ tag)) := by
  have hstart : frameStart h body tag' = (frameStart h body tag).mapReport (Report.withTag tag') := rfl
  rw [runFrame_append _ _ _ _ _ ht, runFrame_append _ _ _ _ _ ht', branch_inBuf, hstart,
    (changesFrameParts_withTag tag').branch]
  cases branch cfg s h.ftype body (frameStart h body tag) with
  | error r => rfl
  | ok w => exact deliver_eq_mapCompleted rfl rfl

/-- Settles O52: a frame that is its tag alone is truncated with either tag, and any other by `runFrame_withTag`. -/
theorem tagNeverChecked : Obligations.TagNeverChecked := by
  unfold Obligations.TagNeverChecked
  intro s m F tag tag' ht ht' hin hin'
  rw [exec_decode_eq_runFrame hin, exec_decode_eq_runFrame hin']
  cases F with
  | nil =>
    rw [List.nil_append, List.nil_append, runFrame_truncated _ _ _ (by omega), runFrame_truncated _ _ _ (by omega)]
    rfl
  | cons b body => exact runFrame_withTag Config.hw s m (mhdr b) b body ht ht'

/-! ### Data parts without a plaintext (R239, R154, R157) -/

theorem DataReport.Coherent.frmCmds_eq_none {dir : Direction} {d : DataReport} (h : d.Coherent dir)
    (hport : d.port ≠ some 0) : d.frmCmds = none :=
  Option.eq_none_iff_forall_ne_some.mpr fun c hc => hport (h.cmds c hc).1

theorem DataReport.Coherent.frmPlain_eq_none {dir : Direction} {d : DataReport} (h : d.Coherent dir)
    (hfrm : d.frm = none) : d.frmPlain = none :=
  Option.eq_none_iff_forall_ne_some.mpr fun q hq => by
    obtain ⟨f, hf, -⟩ := h.plainLength q hq
    rw [hfrm] at hf
    cases hf

/-- Settles O54: what any instruction completes with is coherent, and a coherent data part is so. -/
theorem diagnosticNeverDecrypted : Obligations.DiagnosticNeverDecrypted := by
  unfold Obligations.DiagnosticNeverDecrypted
  intro i s t r d ht hr hd
  obtain ⟨w, out, hw, rfl⟩ := completedIn_exec ht
  obtain rfl : w.report = r := Option.some.inj hr
  obtain ⟨dir, -, hcoh⟩ := hw.data d hd
  refine ⟨fun hport => ?_, fun hport => ?_⟩
  · obtain ⟨hcls, hplain⟩ := hcoh.diagnostic hport
    exact ⟨hcls, hplain, hcoh.frmCmds_eq_none (by simp [hport])⟩
  · have hfrm : d.frm = none := by simpa [hport] using hcoh.portFrm
    exact ⟨hfrm, hcoh.frmPlain_eq_none hfrm, hcoh.frmCmds_eq_none (by simp [hport])⟩

end Sys2Proof.Machine
end

section
/-! Proofs, family 44_host_hexingest: the strip steps of HexIngest on the characters a host types, and its two forms. -/

namespace Sys2Proof.Machine

/-! ### The characters of a typed byte (R250) -/

/-- What is left of a typed text once it is stripped: hexadecimal digits and dots. -/
def DigitOrDot (c : Char) : Prop := (hexDigit c).isSome ∨ c = '.'

/-- None of them is a whitespace character, a comma or a letter of a token: each of those is no digit and no dot. -/
theorem DigitOrDot.ne {c d : Char} (h : DigitOrDot c) (hd : hexDigit d = none) (hdot : d ≠ '.') : c ≠ d := by
  rintro rfl
  obtain h | h := h
  · simp [hd] at h
  · exact hdot h

theorem DigitOrDot.isWhitespace_eq_false {c : Char} (h : DigitOrDot c) : c.isWhitespace = false := by
  simp only [Char.isWhitespace, Bool.or_eq_false_iff, decide_eq_false_iff_not]
  exact ⟨⟨⟨h.ne (by decide) (by decide), h.ne (by decide) (by decide)⟩, h.ne (by decide) (by decide)⟩,
    h.ne (by decide) (by decide)⟩

theorem hexDigit_digitChar : ∀ n < 16, hexDigit (Nat.digitChar n) = some n := by decide

/-- Both digits of a byte are hexadecimal digits. -/
theorem hexDigit_isSome_of_mem_hexPair {b : Byte} {c : Char} (hc : c ∈ hexPair b) : (hexDigit c).isSome := by
  have hb := b.isLt
  obtain rfl | rfl : c = Nat.digitChar (b.toNat / 16) ∨ c = Nat.digitChar (b.toNat % 16) := by
    simpa [hexPair] using hc
  · simp [hexDigit_digitChar (b.toNat / 16) (by omega)]
  · simp [hexDigit_digitChar (b.toNat % 16) (by omega)]

theorem digitOrDot_of_mem_hexPair {b : Byte} {c : Char} (hc : c ∈ hexPair b) : DigitOrDot c :=
  .inl (hexDigit_isSome_of_mem_hexPair hc)

theorem digitOrDot_of_mem_flatMap_hexPair {bs : Bytes} {c : Char} (hc : c ∈ bs.flatMap hexPair) : DigitOrDot c := by
  obtain ⟨b, -, hc⟩ := List.mem_flatMap.mp hc
  exact digitOrDot_of_mem_hexPair hc

theorem dot_notMem_hexPair (b : Byte) : '.' ∉ hexPair b := fun h => by
  simpa [hexDigit] using hexDigit_isSome_of_mem_hexPair h

theorem token_notMem_hexPair (b : Byte) : 'x' ∉ hexPair b := fun h => by
  simpa [hexDigit] using hexDigit_isSome_of_mem_hexPair h

/-- The two digits of a byte, read back, are the byte. -/
theorem hexByte_digitChar (b : Byte) :
    hexByte (Nat.digitChar (b.toNat / 16)) (Nat.digitChar (b.toNat % 16)) = some b := by
  have hb := b.isLt
  have hdigits : 16 * (b.toNat / 16) + b.toNat % 16 = b.toNat := Nat.div_add_mod _ _
  simp [hexByte, hexDigit_digitChar _ (show b.toNat / 16 < 16 by omega),
    hexDigit_digitChar _ (show b.toNat % 16 < 16 by omega), hdigits]

/-! ### The strip steps -/

/-- A character that no `x` follows starts no token. -/
theorem stripToken_cons {c : Char} {t : List Char} (h : t.head? ≠ some 'x') :
    stripToken (c :: t) = c :: stripToken t := by
  cases t with
  | nil => rfl
  | cons d t =>
    have hd : d ≠ 'x' := by simpa using h
    simp [stripToken, hd]

theorem stripToken_token (t : List Char) : stripToken ('0' :: 'x' :: t) = stripToken t := by
  simp [stripToken]

/-- A text without `x` is kept up to the token that follows it. -/
theorem stripToken_append_token {u : List Char} (hu : 'x' ∉ u) (t : List Char) :
    stripToken (u ++ '0' :: 'x' :: t) = u ++ stripToken t := by
  induction u with
  | nil => exact stripToken_token t
  | cons c u ih =>
    obtain ⟨-, hu⟩ := List.ne_and_not_mem_of_not_mem_cons hu
    have hhead : (u ++ '0' :: 'x' :: t).head? ≠ some 'x' := by
      cases u with
      | nil => simp
      | cons d u => simpa using (List.ne_of_not_mem_cons hu).symm
    rw [List.cons_append, stripToken_cons hhead, ih hu, List.cons_append]

theorem stripToken_of_notMem {t : List Char} (h : 'x' ∉ t) : stripToken t = t := by
  induction t with
  | nil => rfl
  | cons c t ih =>
    obtain ⟨-, ht⟩ := List.ne_and_not_mem_of_not_mem_cons h
    rw [stripToken_cons fun hx => ht (List.mem_of_head? hx), ih ht]

/-- The tokens before the groups are removed, and nothing else: a `0` that ends a group is not the `0` of a token. -/
theorem stripToken_append_flatMap {u : List Char} (hu : 'x' ∉ u) {g : Byte → List Char} (hg : ∀ b, 'x' ∉ g b)
    (bs : Bytes) : stripToken (u ++ bs.flatMap fun b => '0' :: 'x' :: g b) = u ++ bs.flatMap g := by
  induction bs generalizing u with
  | nil => simpa using stripToken_of_notMem hu
  | cons b bs ih => simp [stripToken_append_token hu, ih (hg b)]

theorem stripToken_flatMap {g : Byte → List Char} (hg : ∀ b, 'x' ∉ g b) (bs : Bytes) :
    stripToken (bs.flatMap fun b => '0' :: 'x' :: g b) = bs.flatMap g :=
  stripToken_append_flatMap (u := []) List.not_mem_nil hg bs

theorem stripSpace_of_digitOrDot {t : List Char} (h : ∀ c ∈ t, DigitOrDot c) : stripSpace t = t :=
  List.filter_eq_self.mpr fun c hc => by simp [(h c hc).isWhitespace_eq_false]

theorem stripToken_of_digitOrDot {t : List Char} (h : ∀ c ∈ t, DigitOrDot c) : stripToken t = t :=
  stripToken_of_notMem fun hx => (h 'x' hx).ne (by decide) (by decide) rfl

theorem stripSpace_flatMap (f : Byte → List Char) (bs : Bytes) :
    stripSpace (bs.flatMap f) = bs.flatMap fun b => stripSpace (f b) :=
  List.filter_flatMap ..

theorem stripSpace_hexPair (b : Byte) : stripSpace (hexPair b) = hexPair b :=
  stripSpace_of_digitOrDot fun _ => digitOrDot_of_mem_hexPair

/-- The space after a group is removed, and nothing else of it. -/
theorem stripSpace_hexPair_space (b : Byte) : stripSpace (hexPair b ++ [' ']) = hexPair b := by
  have happend : stripSpace (hexPair b ++ [' ']) = stripSpace (hexPair b) ++ stripSpace [' '] := List.filter_append ..
  rw [happend, stripSpace_hexPair]
  simp [stripSpace, Char.isWhitespace]

theorem stripSpace_token (t : List Char) : stripSpace ('0' :: 'x' :: t) = '0' :: 'x' :: stripSpace t := by
  simp [stripSpace, Char.isWhitespace]

/-! ### The stripped text -/

theorem hasCapitalToken_of_notMem {t : List Char} (h : 'X' ∉ t) : hasCapitalToken t = false := by
  induction t with
  | nil => rfl
  | cons c t ih =>
    obtain ⟨-, ht⟩ := List.ne_and_not_mem_of_not_mem_cons h
    cases t with
    | nil => rfl
    | cons d t =>
      have hd : d ≠ 'X' := fun hd => ht (hd ▸ List.mem_cons_self)
      simp [hasCapitalToken, hd, ih ht]

theorem openText_of_digitOrDot {t : List Char} (h : ∀ c ∈ t, DigitOrDot c) : openText t = false := by
  have hcomma : ',' ∉ t := fun hc => (h ',' hc).ne (by decide) (by decide) rfl
  have hcapital : 'X' ∉ t := fun hc => (h 'X' hc).ne (by decide) (by decide) rfl
  simp [openText, hcomma, hasCapitalToken_of_notMem hcapital]

/-- Where both orders of the strip steps give the same text, HexIngest reads that text. -/
theorem hexIngest_of_strip {t clean : List Char} (hspace : stripToken (stripSpace t) = clean)
    (htoken : stripSpace (stripToken t) = clean) : hexIngest t = ingestClean clean := by
  simp [hexIngest, hspace, htoken]

/-- The strip steps leave digits and dots as they are. -/
theorem hexIngest_of_digitOrDot {t : List Char} (h : ∀ c ∈ t, DigitOrDot c) : hexIngest t = ingestClean t :=
  hexIngest_of_strip (by rw [stripSpace_of_digitOrDot h, stripToken_of_digitOrDot h])
    (by rw [stripToken_of_digitOrDot h, stripSpace_of_digitOrDot h])

/-! ### The contiguous form -/

theorem contiguous_hexPair_append {b : Byte} {t : List Char} {bs : Bytes} (h : contiguous t = .bytes bs) :
    contiguous (hexPair b ++ t) = .bytes (b :: bs) := by
  simp [hexPair, contiguous, hexByte_digitChar, h]

theorem contiguous_flatMap_hexPair (bs : Bytes) : contiguous (bs.flatMap hexPair) = .bytes bs := by
  induction bs with
  | nil => rfl
  | cons b bs ih => exact contiguous_hexPair_append ih

theorem ingestClean_flatMap_hexPair (bs : Bytes) : ingestClean (bs.flatMap hexPair) = .bytes bs := by
  have hdot : '.' ∉ bs.flatMap hexPair := by simp [dot_notMem_hexPair]
  simp [ingestClean, openText_of_digitOrDot fun _ => digitOrDot_of_mem_flatMap_hexPair, hdot,
    contiguous_flatMap_hexPair]

/-- One digit string. -/
theorem hexIngest_flatMap_hexPair (bs : Bytes) : hexIngest (bs.flatMap hexPair) = .bytes bs := by
  rw [hexIngest_of_digitOrDot fun _ => digitOrDot_of_mem_flatMap_hexPair, ingestClean_flatMap_hexPair]

/-- Groups with `0x` before each and a space after each: either order of the strip steps leaves the digit string. -/
theorem hexIngest_tokenGroups (bs : Bytes) :
    hexIngest (bs.flatMap fun b => '0' :: 'x' :: hexPair b ++ [' ']) = .bytes bs := by
  have hspace : stripToken (stripSpace (bs.flatMap fun b => '0' :: 'x' :: (hexPair b ++ [' ']))) =
      bs.flatMap hexPair := by
    simp only [stripSpace_flatMap, stripSpace_token, stripSpace_hexPair_space]
    exact stripToken_flatMap token_notMem_hexPair bs
  have htoken : stripSpace (stripToken (bs.flatMap fun b => '0' :: 'x' :: (hexPair b ++ [' ']))) =
      bs.flatMap hexPair := by
    rw [stripToken_flatMap (fun b => by simp [token_notMem_hexPair]), stripSpace_flatMap]
    simp only [stripSpace_hexPair_space]
  exact (hexIngest_of_strip hspace htoken).trans (ingestClean_flatMap_hexPair bs)

/-! ### The dot form -/

/-- The groups between the dots are the library's split at the dot. -/
theorem splitDots_eq_splitOn (t : List Char) : splitDots t = t.splitOn '.' := by
  induction t with
  | nil => rfl
  | cons c t ih =>
    obtain ⟨g, gs, hgs⟩ := List.exists_cons_of_ne_nil (List.splitOn_ne_nil '.' t)
    rw [splitDots, ih, hgs]
    rw [List.splitOn] at hgs ⊢
    by_cases hc : c = '.' <;> simp [List.splitOnP_cons_eq_if_modifyHead, hgs, hc]

theorem splitDots_intercalate_map_hexPair {bs : Bytes} (hne : bs ≠ []) :
    splitDots (['.'].intercalate (bs.map hexPair)) = bs.map hexPair := by
  rw [splitDots_eq_splitOn]
  exact List.splitOn_intercalate '.' (by simp [dot_notMem_hexPair]) (by simpa using hne)

theorem groupByte_hexPair (b : Byte) : groupByte (hexPair b) = some (some b) :=
  congrArg some (hexByte_digitChar b)

theorem dotted_map_hexPair (bs : Bytes) : dotted (bs.map hexPair) = .bytes bs := by
  induction bs with
  | nil => rfl
  | cons b bs ih => simp [dotted, groupByte_hexPair, ih]

/-- Joining by dots adds no other character. -/
theorem digitOrDot_of_mem_intercalate {gs : List (List Char)} (hgs : ∀ g ∈ gs, ∀ c ∈ g, DigitOrDot c) :
    ∀ c ∈ ['.'].intercalate gs, DigitOrDot c := by
  induction gs with
  | nil => simp
  | cons g gs ih =>
    obtain ⟨hg, hrest⟩ := List.forall_mem_cons.mp hgs
    cases gs with
    | nil => simpa using hg
    | cons g' gs =>
      rw [List.intercalate_cons_cons]
      simp only [List.forall_mem_append, List.forall_mem_singleton]
      exact ⟨⟨hg, .inr rfl⟩, ih hrest⟩

theorem digitOrDot_of_mem_intercalate_map_hexPair (bs : Bytes) :
    ∀ c ∈ ['.'].intercalate (bs.map hexPair), DigitOrDot c :=
  digitOrDot_of_mem_intercalate (List.forall_mem_map.mpr fun _ _ _ => digitOrDot_of_mem_hexPair)

/-- Dot groups: with two bytes or more there is a dot, and below that the text is a digit string. -/
theorem hexIngest_dotGroups : ∀ bs : Bytes, hexIngest (['.'].intercalate (bs.map hexPair)) = .bytes bs
  | [] => hexIngest_flatMap_hexPair []
  | [b] => by simpa using hexIngest_flatMap_hexPair [b]
  | b :: b' :: bs => by
    have hchars := digitOrDot_of_mem_intercalate_map_hexPair (b :: b' :: bs)
    have hdot : '.' ∈ ['.'].intercalate ((b :: b' :: bs).map hexPair) := by simp [List.intercalate_cons_cons]
    rw [hexIngest_of_digitOrDot hchars, ingestClean, openText_of_digitOrDot hchars, if_neg (by decide),
      if_pos (List.contains_iff_mem.mpr hdot), splitDots_intercalate_map_hexPair (by simp), dotted_map_hexPair]

/-- Settles O57: the digit string is read as it stands, the `0x` groups strip to it, and the dot groups split into the
pairs of digits. -/
theorem ingestFormsAgree : Obligations.IngestFormsAgree := by
  unfold Obligations.IngestFormsAgree
  exact fun bs => ⟨hexIngest_flatMap_hexPair bs, hexIngest_tokenGroups bs, hexIngest_dotGroups bs⟩

end Sys2Proof.Machine
end

section
/-! Proofs, family 60_exceptions (spec/60_exceptions.md): the codes of the error kinds, and which operation can report
which error. -/

namespace Sys2Proof.Machine

/-! ### Codes (R261) -/

/-- Settles O17: `Err.code` and `Err.info` are the table of R261, row by row. -/
theorem errorCodes : Obligations.ErrorCodes := by
  unfold Obligations.ErrorCodes
  exact ⟨rfl, rfl, rfl, fun _ => ⟨rfl, rfl⟩, rfl, fun _ _ => ⟨rfl, rfl⟩, fun _ => ⟨rfl, rfl⟩, fun _ => ⟨rfl, rfl⟩,
    rfl, rfl, rfl, rfl⟩

/-! ### Recording errors of a column (R272) -/

/-- The error recorded so far stands in the operation's column of R272. -/
def Work.InColumn (i : Instr) (w : Work) : Prop := mayReport i w.err = true

theorem Work.InColumn.note {i : Instr} {w : Work} (h : w.InColumn i) {e : Err} (he : mayReport i e = true) :
    (w.note e).InColumn i := by
  unfold Work.InColumn
  rw [note_err]
  split
  · exact he
  · exact h

/-- FHDR's column has both errors that a walk's stop can record (R269). -/
theorem Work.InColumn.noteStop {w : Work} (h : w.InColumn .fhdr) (stop : StreamStop) :
    (w.noteStop stop).InColumn .fhdr := by
  cases stop with
  | complete => exact h
  | unrecognized id pos => exact h.note rfl
  | shortBody id pos => exact h.note rfl

theorem Work.InColumn.setData {i : Instr} {w : Work} (h : w.InColumn i) (d : DataReport) : (w.setData d).InColumn i := h

theorem Work.InColumn.setDirection {i : Instr} {w : Work} (h : w.InColumn i) (dir : Option Direction) :
    (w.setDirection dir).InColumn i := h

/-- DECODE runs the dissector: it can report what FHDR can. -/
theorem mayReport_decode_of_fhdr {e : Err} (h : mayReport .fhdr e = true) : mayReport .decode e = true := by
  cases e with
  | ok | conflictingCommandPlacement | unrecognizedCommand => rfl
  | malformedLength p =>
    exact decide_eq_true (List.mem_cons_of_mem _ (List.mem_cons_of_mem _ (of_decide_eq_true h)))
  | malformedHexInput | truncatedFrame | unsupportedFrameType | missingKey => cases h

/-! ### The parts of the operations -/

theorem mayReport_macparse_stopErr (stop : StreamStop) : mayReport .macparse (stopErr stop) = true := by
  cases stop <;> rfl

theorem joinreqInto_inColumn {i : Instr} {w : Work} (body : Bytes)
    (hi : mayReport i (.malformedLength .joinreq) = true) (h : w.InColumn i) :
    (joinreqInto body w).work.InColumn i := by
  unfold joinreqInto
  split
  · exact h
  · exact h.note hi

theorem joinaccInto_inColumn {i : Instr} {w : Work} (body : Bytes)
    (hi : mayReport i (.malformedLength .joinacc) = true) (h : w.InColumn i) :
    (joinaccInto body w).work.InColumn i := by
  unfold joinaccInto
  split
  · exact h
  · exact h.note hi

section

variable (cfg : Config)

theorem portAndBody_inColumn (body : Bytes) (L : Nat) (d : DataReport) {w : Work} (h : w.InColumn .fhdr) :
    (portAndBody cfg body L d w).work.InColumn .fhdr := by
  unfold portAndBody
  split
  · exact h.setData _
  · dsimp only
    split
    · exact (h.setData _).note rfl
    · exact h.setData _

/-- The dissector records the two short bodies of R160, what its walk stops at, and the conflict of R155. -/
theorem fhdr_inColumn (body : Bytes) (dir : Direction) (hi : BitVec 16) {w : Work} (h : w.InColumn .fhdr) :
    (fhdr cfg body dir hi w).work.InColumn .fhdr := by
  unfold fhdr
  dsimp only
  split
  · exact (h.setDirection _).note rfl
  · split
    · exact ((h.setDirection _).setData _).note rfl
    · exact portAndBody_inColumn cfg _ _ _ (((h.setDirection _).setData _).noteStop _)

variable {cfg} {s : State} {dir : Direction} {w w' : Work}

theorem commandsStep_inColumn (hw : w.InColumn .fhdr) {d : DataReport} (h : commandsStep cfg s dir d w = .ok w') :
    w'.InColumn .fhdr := by
  unfold commandsStep at h
  split at h
  · split at h <;> cases h
    exact (hw.setData _).noteStop _
  · cases h; exact hw

theorem appDataStep_inColumn (hw : w.InColumn .fhdr) {d : DataReport} (h : appDataStep cfg s dir d w = .ok w') :
    w'.InColumn .fhdr := by
  unfold appDataStep at h
  split at h
  · split at h <;> cases h
    exact hw.setData _
  · cases h; exact hw

/-- The payload step records no error of its own but the stop of its walk (R235, R237): a missing key is none. -/
theorem payloadStep_inColumn (hw : w.InColumn .fhdr) (h : payloadStep cfg s dir w = .ok w') : w'.InColumn .fhdr := by
  unfold payloadStep at h
  split at h
  · cases h; exact hw
  · split at h
    · exact commandsStep_inColumn hw h
    · exact appDataStep_inColumn hw h
    all_goals cases h; exact hw

theorem dataFrame_inColumn (hw : w.InColumn .fhdr) {body : Bytes} (h : dataFrame cfg s dir body w = .ok w') :
    w'.InColumn .fhdr := by
  have hf := fhdr_inColumn cfg body dir s.fcntHi hw
  unfold dataFrame at h
  split at h
  · next he => cases h; rwa [he] at hf
  · next hg => rw [hg] at hf; exact payloadStep_inColumn hf h

/-- The branch of every frame type, where nothing is recorded before it (R223). -/
theorem branch_inColumn (hw : w.err = .ok) {ft : FrameType} {body : Bytes} (h : branch cfg s ft body w = .ok w') :
    w'.InColumn .decode := by
  have hdecode : w.InColumn .decode := congrArg (mayReport .decode) hw
  have hfhdr : w.InColumn .fhdr := congrArg (mayReport .fhdr) hw
  cases ft
  case joinRequest => cases h; exact joinreqInto_inColumn body rfl hdecode
  case joinAccept => cases h; exact joinaccInto_inColumn body rfl hdecode
  case reserved | proprietary => cases h; exact hdecode.note rfl
  all_goals exact mayReport_decode_of_fhdr (dataFrame_inColumn hfhdr h)

end

/-! ### Outcomes -/

/-- Whatever an outcome completes in, it reports an error of the operation's column. -/
def ReportsColumn (i : Instr) (o : Host.Outcome State Fault Refusal) : Prop :=
  ∀ t e, completedIn o t → t.err = some e → mayReport i e = true

section

variable {i : Instr} {s : State}

theorem ReportsColumn.refused (r : Refusal) : ReportsColumn i (.refused r) :=
  fun t _ ht => absurd ht (not_completedIn_refused r t)

theorem ReportsColumn.deliver {w : Work} {out : Bytes} (h : w.InColumn i) : ReportsColumn i (deliver s w out) := by
  intro t e ht he
  rw [completedIn_deliver ht, complete_err] at he
  exact Option.some.inj he ▸ h

theorem ReportsColumn.need {α : Type} {r : Reg} {v : Option α} {k : α → Host.Outcome State Fault Refusal}
    (h : ∀ a, ReportsColumn i (k a)) : ReportsColumn i (need r v k) := by
  cases v with
  | none => exact .refused _
  | some a => exact h a

theorem ReportsColumn.withInput {cfg : Config} {k : Bytes → Host.Outcome State Fault Refusal}
    (h : ∀ bs, ReportsColumn i (k bs)) : ReportsColumn i (withInput cfg s k) := by
  intro t e ht
  obtain ⟨bs, -, hbs⟩ := completedIn_withInput ht
  exact h bs t e hbs

theorem ReportsColumn.withDir {k : Direction → Host.Outcome State Fault Refusal}
    (h : ∀ d, ReportsColumn i (k d)) : ReportsColumn i (withDir s k) := .need fun d => h (Direction.ofBit d)

/-- A key operand adds MissingKey to what an operation can report (R271). -/
theorem ReportsColumn.withKey {ksel : Bit} {k : Block → Host.Outcome State Fault Refusal}
    (hmissing : ∀ kind, mayReport i (.missingKey kind) = true) (h : ∀ K, ReportsColumn i (k K)) :
    ReportsColumn i (withKey s ksel k) := by
  unfold Machine.withKey
  dsimp only
  split
  · exact .deliver (hmissing _)
  · exact .need h

end

/-! ### The operations -/

section

variable (cfg : Config) (s : State)

theorem opAesblk_reportsColumn : ReportsColumn .aesblk (opAesblk cfg s) :=
  .withInput fun input => .need fun _ => .withKey (fun _ => rfl) fun _ => by
    split <;> exact .deliver rfl

theorem opCipher_reportsColumn : ReportsColumn .cipher (opCipher cfg s) :=
  .withInput fun _ => .need fun _ => .withDir fun _ => .need fun _ => .need fun _ => .need fun _ =>
    .withKey (fun _ => rfl) fun _ => .deliver rfl

theorem opMacparse_reportsColumn : ReportsColumn .macparse (opMacparse cfg s) :=
  .withInput fun _ => .withDir fun _ => by
    rw [runMacparse_eq_deliver]
    exact .deliver (mayReport_macparse_stopErr _)

theorem opFhdr_reportsColumn : ReportsColumn .fhdr (opFhdr cfg s) :=
  .withInput fun input => .withDir fun dir => .deliver (fhdr_inColumn cfg input dir s.fcntHi rfl)

theorem opMhdr_reportsColumn : ReportsColumn .mhdr (opMhdr cfg s) :=
  .withInput fun input => by
    split <;> exact .deliver rfl

theorem opFctrl_reportsColumn : ReportsColumn .fctrl (opFctrl cfg s) :=
  .withInput fun input => .withDir fun _ => by
    split <;> exact .deliver rfl

theorem opJoinreq_reportsColumn : ReportsColumn .joinreq (opJoinreq cfg s) :=
  .withInput fun input => .deliver (joinreqInto_inColumn input rfl rfl)

theorem opJoinacc_reportsColumn : ReportsColumn .joinacc (opJoinacc cfg s) :=
  .withInput fun input => by
    have h := joinaccInto_inColumn (i := .joinacc) (w := {}) input rfl rfl
    split
    · next w hw => rw [hw] at h; exact .deliver (h.setDirection _)
    · next w hw => rw [hw] at h; exact .deliver h

/-- A frame is truncated, or its branch answers (R221, R223). -/
theorem runFrame_reportsColumn (m : Mhdr) (F : Bytes) : ReportsColumn .decode (runFrame cfg s m F) := by
  by_cases hlen : F.length < 5
  · rw [runFrame, if_pos hlen]
    exact .deliver rfl
  · rw [runFrame_eq_answer cfg s m hlen]
    cases hb : branch cfg s m.ftype (frameBody F) (frameStart m (frameBody F) (frameTag F)) with
    | error r => exact .refused r
    | ok w => exact .deliver (branch_inColumn rfl hb)

theorem opDecode_reportsColumn : ReportsColumn .decode (opDecode cfg s) :=
  .withInput fun F => runFrame_reportsColumn cfg s (mhdr (byteAt F 0)) F

end

theorem exec_reportsColumn (s : State) : ∀ i ∈ operations, ReportsColumn i (exec i s) := by
  simp only [operations, List.forall_mem_cons]
  exact ⟨opDecode_reportsColumn _ s, opCipher_reportsColumn _ s, opMacparse_reportsColumn _ s, opFhdr_reportsColumn _ s,
    opMhdr_reportsColumn _ s, opFctrl_reportsColumn _ s, opJoinreq_reportsColumn _ s, opJoinacc_reportsColumn _ s,
    opAesblk_reportsColumn _ s, nofun⟩

/-- Settles O16: each operation records errors of its own column only. -/
theorem errorsOfEachOperation : Obligations.ErrorsOfEachOperation := by
  unfold Obligations.ErrorsOfEachOperation
  exact fun i s t e hi => exec_reportsColumn s i hi t e

end Sys2Proof.Machine
end
